-- ==== Sys2Proof/Word.lean ====
section
/-! DEFINITION. The widths of SHA256-CORE's values (00_scope.md R6). All arithmetic on them is the unsigned,
wrapping arithmetic of `BitVec` (R9). -/

namespace Sys2Proof

/-- `u8` of R6: a byte of the message, of the padded buffer or of the formatter's output. -/
abbrev Byte := BitVec 8

/-- `u32` of R6: every datapath value of the engine, and the host's data. -/
abbrev Word := BitVec 32

end Sys2Proof
end

