-- ==== Sys2Proof/Syntax.lean ====
section
/-! DEFINITION. The operations of SHA256-CORE: one constructor per row of spec/opcode_table.json, in the table's order
and with the table's three formats (30_encoding.md R90, R92, R95), and the encoded forms they are read from. -/

namespace Sys2Proof

/-- The operations. BUS rows carry the transaction's address and write data (R90); CMD rows carry nothing but for
ILLEGAL, which keeps the word written (R94); UOP rows carry nothing, since their operands are the registers `T` and
`BLK` (R96), and RESERVED_PHASE keeps its code. -/
inductive Instr where
  | rd8 (addr wdata : BitVec 32)
  | wr8 (addr wdata : BitVec 32)
  | rd32 (addr wdata : BitVec 32)
  | wr32 (addr wdata : BitVec 32)
  | nop
  | start
  | abort
  | illegal (word : BitVec 32)
  | idle
  | init
  | pad
  | load
  | expand
  | winit
  | round
  | fold
  | finalize
  | done
  | reservedPhase (code : BitVec 4)
deriving DecidableEq, Repr

/-- What a word written to CTRL is decoded to (R94). -/
inductive Command where
  | nop
  | start
  | abort
  | illegal
deriving DecidableEq, Repr

/-- The transaction kinds (R91). -/
inductive BusKind where
  | rd8
  | wr8
  | rd32
  | wr32
deriving DecidableEq, Repr

/-- An encoded operation: a transaction record (R90), a command word (R92) or a micro-operation code (R95). -/
inductive Encoded where
  | bus (record : BitVec 66)
  | cmd (word : BitVec 32)
  | uop (phase : BitVec 4)
deriving DecidableEq, Repr

/-- Why a bit pattern is no encoded operation. -/
inductive DecodeError where
  /-- No format of R90, R92 or R95 has this many bits. -/
  | noFormatOfWidth (nbits : Nat)
  /-- A bit is set above the format's width. -/
  | bitsAboveFormat (width w : Nat)
deriving DecidableEq, Repr

end Sys2Proof
end

