-- ==== Sys2Proof/WellFormed.lean ====
section
/-! DEFINITION. Which terms of `Instr` stand for an encoding: ILLEGAL carries a word that R94 decodes to ILLEGAL, and
RESERVED_PHASE a code of R97. -/

namespace Sys2Proof

/-- The words R94 decodes to ILLEGAL: RSV (bits 31..4) nonzero, or OP (bits 3..0) in 0x3..0xF. -/
def isIllegalWord (word : BitVec 32) : Bool :=
  decide (word.extractLsb' 4 28 ≠ 0 ∨ 3 ≤ (word.extractLsb' 0 4).toNat)

/-- The reserved PHASE codes 0xA..0xF (R97). -/
def isReservedPhase (code : BitVec 4) : Bool := decide (0xA ≤ code.toNat)

/-- Well-formed: the term is the reading of some encoding. Addresses and data take every value. -/
def Instr.wf : Instr → Bool
  | .illegal word => isIllegalWord word
  | .reservedPhase code => isReservedPhase code
  | .rd8 _ _ | .wr8 _ _ | .rd32 _ _ | .wr32 _ _ => true
  | .nop | .start | .abort => true
  | .idle | .init | .pad | .load | .expand | .winit | .round | .fold | .finalize | .done => true

/-- The reference encoding supplies `wdata` = 0 with a read (R90). A read with other data is still the read. -/
def Instr.isReferenceForm : Instr → Bool
  | .rd8 _ wdata | .rd32 _ wdata => wdata == 0
  | .wr8 _ _ | .wr32 _ _ => true
  | .nop | .start | .abort | .illegal _ => true
  | .idle | .init | .pad | .load | .expand | .winit | .round | .fold | .finalize | .done => true
  | .reservedPhase _ => true

end Sys2Proof
end

