-- ==== Sys2Proof/Decode.lean ====
section
/-! DEFINITION. Decoding and encoding of the three formats of 30_encoding.md, both total on the format's bit patterns;
bit patterns of any other width are rejected by name. -/

namespace Sys2Proof

/-! The micro-operation codes (R95). -/

abbrev PHASE_IDLE : BitVec 4 := 0x0
abbrev PHASE_INIT : BitVec 4 := 0x1
abbrev PHASE_PAD : BitVec 4 := 0x2
abbrev PHASE_LOAD : BitVec 4 := 0x3
abbrev PHASE_EXPAND : BitVec 4 := 0x4
abbrev PHASE_WINIT : BitVec 4 := 0x5
abbrev PHASE_ROUND : BitVec 4 := 0x6
abbrev PHASE_FOLD : BitVec 4 := 0x7
abbrev PHASE_FINALIZE : BitVec 4 := 0x8
abbrev PHASE_DONE : BitVec 4 := 0x9

/-- The transaction kinds' codes (R91). -/
def BusKind.code : BusKind → BitVec 2
  | .rd8 => 0b00
  | .wr8 => 0b01
  | .rd32 => 0b10
  | .wr32 => 0b11

/-- All four values of the kind field are used (R91). -/
def decodeKind (code : BitVec 2) : BusKind :=
  if code = 0b00 then .rd8
  else if code = 0b01 then .wr8
  else if code = 0b10 then .rd32
  else .wr32

/-! The fields of the record of R90. -/

def recordKind (record : BitVec 66) : BitVec 2 := record.extractLsb' 64 2
def recordAddr (record : BitVec 66) : BitVec 32 := record.extractLsb' 32 32
def recordWdata (record : BitVec 66) : BitVec 32 := record.extractLsb' 0 32

/-- The record `kind ‖ addr ‖ wdata` (R90). -/
def busRecord (kind : BusKind) (addr wdata : BitVec 32) : BitVec 66 := kind.code ++ addr ++ wdata

/-- A transaction record (R90, R91). -/
def decodeBus (record : BitVec 66) : Instr :=
  match decodeKind (recordKind record) with
  | .rd8 => .rd8 (recordAddr record) (recordWdata record)
  | .wr8 => .wr8 (recordAddr record) (recordWdata record)
  | .rd32 => .rd32 (recordAddr record) (recordWdata record)
  | .wr32 => .wr32 (recordAddr record) (recordWdata record)

/-- `decode_cmd` of R94: the RSV field is tested first, then OP. -/
def decodeCommand (word : BitVec 32) : Command :=
  if word.extractLsb' 4 28 ≠ 0 then .illegal
  else if word.extractLsb' 0 4 = 0x0 then .nop
  else if word.extractLsb' 0 4 = 0x1 then .start
  else if word.extractLsb' 0 4 = 0x2 then .abort
  else .illegal

/-- A command word (R92, R93). -/
def decodeCmd (word : BitVec 32) : Instr :=
  match decodeCommand word with
  | .nop => .nop
  | .start => .start
  | .abort => .abort
  | .illegal => .illegal word

/-- A micro-operation code (R95, R97). -/
def decodeUop (phase : BitVec 4) : Instr :=
  if phase = PHASE_IDLE then .idle
  else if phase = PHASE_INIT then .init
  else if phase = PHASE_PAD then .pad
  else if phase = PHASE_LOAD then .load
  else if phase = PHASE_EXPAND then .expand
  else if phase = PHASE_WINIT then .winit
  else if phase = PHASE_ROUND then .round
  else if phase = PHASE_FOLD then .fold
  else if phase = PHASE_FINALIZE then .finalize
  else if phase = PHASE_DONE then .done
  else .reservedPhase phase

/-- The operation an encoded form stands for. Every bit pattern of each format stands for one (R91, R94, R97). -/
def decode : Encoded → Instr
  | .bus record => decodeBus record
  | .cmd word => decodeCmd word
  | .uop phase => decodeUop phase

/-- A bit pattern of `nbits` bits as an encoded form. The formats have 66, 32 and 4 bits (R90, R92, R95, R100); a
record or a code given in whole bytes has 72 or 8 bits, of which the topmost are 0 (log 16). -/
def encodedOfBits (nbits w : Nat) : Except DecodeError Encoded :=
  if nbits = 66 ∨ nbits = 72 then
    if w < 2 ^ 66 then .ok (.bus (BitVec.ofNat 66 w)) else .error (.bitsAboveFormat 66 w)
  else if nbits = 32 then
    if w < 2 ^ 32 then .ok (.cmd (BitVec.ofNat 32 w)) else .error (.bitsAboveFormat 32 w)
  else if nbits = 4 ∨ nbits = 8 then
    if w < 2 ^ 4 then .ok (.uop (BitVec.ofNat 4 w)) else .error (.bitsAboveFormat 4 w)
  else .error (.noFormatOfWidth nbits)

/-- Decoding of a bit pattern, total: an operation, or the name of what is wrong. -/
def decodeBits (nbits w : Nat) : Except DecodeError Instr :=
  match encodedOfBits nbits w with
  | .ok e => .ok (decode e)
  | .error why => .error why

/-- The operation the decoder reads from a row of spec/opcode_table.json. -/
def decodeTableWord (nbits w : Nat) : Option Instr :=
  match decodeBits nbits w with
  | .ok i => some i
  | .error _ => none

/-- The encoding of an operation: R90 with R91, R93 and R95. -/
def encode : Instr → Encoded
  | .rd8 addr wdata => .bus (busRecord .rd8 addr wdata)
  | .wr8 addr wdata => .bus (busRecord .wr8 addr wdata)
  | .rd32 addr wdata => .bus (busRecord .rd32 addr wdata)
  | .wr32 addr wdata => .bus (busRecord .wr32 addr wdata)
  | .nop => .cmd 0x00000000
  | .start => .cmd 0x00000001
  | .abort => .cmd 0x00000002
  | .illegal word => .cmd word
  | .idle => .uop PHASE_IDLE
  | .init => .uop PHASE_INIT
  | .pad => .uop PHASE_PAD
  | .load => .uop PHASE_LOAD
  | .expand => .uop PHASE_EXPAND
  | .winit => .uop PHASE_WINIT
  | .round => .uop PHASE_ROUND
  | .fold => .uop PHASE_FOLD
  | .finalize => .uop PHASE_FINALIZE
  | .done => .uop PHASE_DONE
  | .reservedPhase code => .uop code

/-- The width of an encoded form in bits (R90, R92, R95). -/
def Encoded.width : Encoded → Nat
  | .bus _ => 66
  | .cmd _ => 32
  | .uop _ => 4

/-- The bits of an encoded form as a number, bit 0 the least significant. -/
def Encoded.bits : Encoded → Nat
  | .bus record => record.toNat
  | .cmd word => word.toNat
  | .uop phase => phase.toNat

end Sys2Proof
end

