-- ==== Sys2Proof/Config.lean ====
section
/-! DEFINITION. What an implementation fixes (the platform parameters of 00_scope.md R5 and the sizes derived from
them), and the free values: what the spec leaves unspecified, as opaque constants that no proof can see into. -/

namespace Sys2Proof

/-- The platform parameters of one instance (R5, 93_implementation_defined.md I9). They stand in the machine's state,
where no step changes them, so that a statement about every state is a statement about every value of them
(92_eei_decisions.md D4; log 3). -/
structure Params where
  /-- `MSG_MAX_BYTES`: capacity of the message buffer in bytes. -/
  msgMaxBytes : Nat
  /-- `BASE`: host address of the instance's register map. -/
  base : BitVec 32
deriving DecidableEq, Repr

/-- The bound R5 puts on `MSG_MAX_BYTES`, so that the MSG window ends inside the address space. -/
abbrev Params.wf (p : Params) : Prop := p.msgMaxBytes ≤ 0xFFFF0000

/-- The reference configuration (D35). -/
def Params.reference : Params := { msgMaxBytes := 65536, base := 0 }

/-- `NBLK_MAX` (R5): the largest block count of one message. -/
def Params.nblkMax (p : Params) : Nat := (p.msgMaxBytes + 8) / 64 + 1

/-- `PBUF_MAX` (R5): capacity of the padded buffer in bytes. -/
def Params.pbufMax (p : Params) : Nat := 64 * p.nblkMax

/-- The number of bits that hold every number up to `n`, for `n ≥ 1`: the least `w` with `2^w > n`. -/
def bitsFor (n : Nat) : Nat := Nat.log2 n + 1

/-- `BLK_W` (R5, D32): the width of the BLK and NBLK registers. -/
def Params.blkW (p : Params) : Nat := bitsFor p.nblkMax

/-- The width of PLEN (10_state.md R20): `⌈log2(PBUF_MAX + 1)⌉`. -/
def Params.plenW (p : Params) : Nat := bitsFor p.pbufMax

namespace Config

/-- FREE VALUE (I2, D18; log 4). The byte `MSG[j]` shows while it has not been written since reset number `epoch`. -/
opaque unwrittenMsgByte (epoch j : Nat) : Byte

/-- FREE VALUE (I3; log 5). The byte `P[j]` holds while PAD has not written it since reset number `epoch`. -/
opaque unwrittenPadByte (epoch j : Nat) : Byte

/-- FREE VALUE (I3; log 5). `H[i]` after reset number `epoch`. -/
opaque resetHashWord (epoch i : Nat) : Word

/-- FREE VALUE (I3; log 5). `v[i]` after reset number `epoch`. -/
opaque resetWorkWord (epoch i : Nat) : Word

/-- FREE VALUE (I3; log 5). `W[t]` after reset number `epoch`. -/
opaque resetSchedWord (epoch t : Nat) : Word

/-- FREE VALUE (I3; log 5). `HEXBUF[k]` after reset number `epoch`. -/
opaque resetHexByte (epoch k : Nat) : Byte

/-- FREE VALUE (I3; log 5). `PLEN` after reset number `epoch`, before it is cut to the register's width. -/
opaque resetPlen (epoch : Nat) : Nat

/-- FREE VALUE (log 8). What EXPAND reads as `W[t − k]` where `t < k` and there is no such word. No reachable state
reads it (R44, R45). -/
opaque absentSchedWord (t k : Nat) : Word

end Config

end Sys2Proof
end

