-- ==== Sys2Proof/Machine/State.lean ====
section
/-! DEFINITION. The state of one instance of SHA256-CORE (10_state.md R20), as plain data under the manual's own
register names, the reasons a step can stop, and the state right after reset (70_reset_and_hazards.md R260). -/

namespace Sys2Proof.Machine

/-- Why the machine stops. -/
inductive Fault where
  /-- Raised by an engine step with `PHASE` in 0xA..0xF: R97 calls the state stuck with a fault recorded (also R254,
  I5). No state reached from reset raises it (R44). Safe: the machine stops where the spec gives no step. -/
  | stuckReservedPhase (code : BitVec 4)
deriving DecidableEq, Repr

/-- Why an operation has no meaning here. -/
inductive Refusal where
  /-- The operation has no meaning in the model yet; raised by the dispatcher only. Safe. No arm raises it now. -/
  | notModelled (mnemonic : String)
deriving DecidableEq, Repr

/-- A byte store: the bytes written since reset, each at its index. CANONICAL FORM: indexes strictly rising
(`Memory.wf`). An index that is not listed holds no known byte, so no entry can equal what it reads as (log 19). -/
abbrev Memory := List Host.Cell

/-- The response code of a transaction (30_encoding.md R90): 0 = OK, 1 = BUSERR. -/
inductive Resp where
  | ok
  | busErr
deriving DecidableEq, Repr

/-- The response of a transaction (R90): `resp` and `rdata`. -/
structure Response where
  resp : Resp
  rdata : Word
deriving DecidableEq, Repr

/-- An atomic event (20_memory.md R71, R67; 70_reset_and_hazards.md R260). -/
inductive Event where
  /-- The engine has its turn: at most one micro-operation. -/
  | engine
  /-- The host performs the transaction of this record (R90). -/
  | host (record : BitVec 66)
  /-- The reset input is asserted. -/
  | reset
deriving DecidableEq, Repr

/-- What a host address names (20_memory.md R61). -/
inductive Location where
  | ctrl
  | status
  | msgLen
  | digest (i : Fin 8)
  | hex (k : Fin 64)
  | msg (j : Nat)
  | unmapped
deriving DecidableEq, Repr

/-- The state of one instance. The first fourteen fields are the inventory of R20 but for the ROMs, which are constants
(R26; log 13). -/
structure State where
  /-- Hash state register file (R21). -/
  H : Vector Word 8
  /-- Working variables `a..h` (R22). -/
  v : Vector Word 8
  /-- Message schedule (R23). -/
  W : Vector Word 64
  /-- Padded buffer (R27). -/
  P : Memory
  /-- Length of the padded buffer (R27), below `2 ^ params.plenW`. -/
  PLEN : Nat
  /-- Block count (R28), a register of `params.blkW` bits. -/
  NBLK : Nat
  /-- Index of the current block (R29), a register of `params.blkW` bits. -/
  BLK : Nat
  /-- Step index inside a phase (R30). -/
  T : BitVec 6
  /-- Sequencer phase (R31). -/
  PHASE : BitVec 4
  /-- Sticky flag of a refused command (R32). -/
  CMDERR : Bool
  /-- Sticky flag of a refused length (R33). -/
  LENERR : Bool
  /-- Message length in bytes (R34). -/
  MSG_LEN : BitVec 32
  /-- Message buffer (R35). -/
  MSG : Memory
  /-- Formatter output buffer (R36). -/
  HEXBUF : Vector Byte 64
  /-- The platform parameters (R5), which no step changes (log 3). -/
  params : Params
  /-- The response of the latest transaction since reset (R90), `none` before the first (log 2). -/
  response : Option Response
  /-- The events still to come, the first one first. Any list of them is an interleaving R71 allows (log 1). -/
  events : List Event
  /-- How many resets there have been: what the free values of Config are applied to (log 6). -/
  epoch : Nat
deriving DecidableEq, Repr

/-- The state reset leaves (R260), for given parameters, coming events and reset count: the values R260 lists, no
response, and a free value in every register whose reset value is unspecified (logs 5, 15). -/
def State.afterReset (params : Params) (events : List Event) (epoch : Nat) : State where
  H := Vector.ofFn fun i => Config.resetHashWord epoch i
  v := Vector.ofFn fun i => Config.resetWorkWord epoch i
  W := Vector.ofFn fun t => Config.resetSchedWord epoch t
  P := []
  PLEN := Config.resetPlen epoch % 2 ^ params.plenW
  NBLK := 0
  BLK := 0
  T := 0
  PHASE := 0x0
  CMDERR := false
  LENERR := false
  MSG_LEN := 0
  MSG := []
  HEXBUF := Vector.ofFn fun k => Config.resetHexByte epoch k
  params := params
  response := none
  events := events
  epoch := epoch

/-- The machine right after reset, in the reference configuration (D35), with no event to come. -/
def State.reset : State := State.afterReset Params.reference [] 0

end Sys2Proof.Machine
end

