-- ==== Sys2Proof/Machine/Flags.lean ====
section
/-! DEFINITION. The flags: `busy`, `done` and `idle`, derived from PHASE (10_state.md R31), the STATUS word (R40), and
the sticky flags' updates (R32, R33). No arithmetic sets a flag (R38). -/

namespace Sys2Proof.Machine

/-- `busy` ⇔ 1 ≤ PHASE ≤ 8 (R31). -/
def State.busy (s : State) : Bool := decide (1 ≤ s.PHASE.toNat ∧ s.PHASE.toNat ≤ 8)

/-- `done` ⇔ PHASE = 9 (R31). -/
def State.done (s : State) : Bool := decide (s.PHASE = PHASE_DONE)

/-- `idle` ⇔ PHASE = 0 (R31). -/
def State.idle (s : State) : Bool := decide (s.PHASE = PHASE_IDLE)

/-- STATUS (R40): `zext_32(T ‖ PHASE ‖ LENERR ‖ CMDERR ‖ done ‖ busy)`. -/
def State.statusWord (s : State) : Word :=
  (s.T ++ s.PHASE ++ BitVec.ofBool s.LENERR ++ BitVec.ofBool s.CMDERR ++ BitVec.ofBool s.done
    ++ BitVec.ofBool s.busy).setWidth 32

/-- CMDERR is set; nothing else changes. -/
def State.setCMDERR (s : State) : State := { s with CMDERR := true }

/-- LENERR is set; nothing else changes. -/
def State.setLENERR (s : State) : State := { s with LENERR := true }

/-- Both sticky flags are cleared (R215, R216). -/
def State.clearErrors (s : State) : State := { s with CMDERR := false, LENERR := false }

end Sys2Proof.Machine
end

