-- ==== Sys2Proof/Machine/Datapath.lean ====
section
/-! DEFINITION. The datapath's combinational functions: rotation and shift, the sigmas, Ch, Maj, the round function, the
padding function and the hex digits (00_scope.md R10, R11; 40_preprocessor.md R120; 42_schedule_expander.md R160, R161;
43_compressor.md R180-R183, R185; 44_formatter.md R200, R201). -/

namespace Sys2Proof.Machine

/-- Right rotation (R10). The amount must lie in 1..31: the spec gives other amounts no meaning (I7; log 20). -/
def rotr (x : Word) (n : Nat) (_amount : 1 ≤ n ∧ n ≤ 31 := by decide) : Word :=
  (x >>> n) ||| (x <<< (32 - n))

/-- σ0 (R160): the third term is a shift. -/
def sigma0 (x : Word) : Word := rotr x 7 ^^^ rotr x 18 ^^^ (x >>> 3)

/-- σ1 (R161): the third term is a shift. -/
def sigma1 (x : Word) : Word := rotr x 17 ^^^ rotr x 19 ^^^ (x >>> 10)

/-- Σ0 (R180). -/
def bigSigma0 (x : Word) : Word := rotr x 2 ^^^ rotr x 13 ^^^ rotr x 22

/-- Σ1 (R181). -/
def bigSigma1 (x : Word) : Word := rotr x 6 ^^^ rotr x 11 ^^^ rotr x 25

/-- Choose (R182). -/
def ch (e f g : Word) : Word := (e &&& f) ^^^ (~~~e &&& g)

/-- Majority (R183). -/
def maj (a b c : Word) : Word := (a &&& b) ^^^ (a &&& c) ^^^ (b &&& c)

/-- One schedule word from four earlier ones (R163, R164): `W[t−16] + σ0(W[t−15]) + W[t−7] + σ1(W[t−2])`. -/
def scheduleSum (w16 w15 w7 w2 : Word) : Word := w16 + sigma0 w15 + w7 + sigma1 w2

/-- The round function (R185), in its parallel form. -/
def roundFn (v : Vector Word 8) (k w : Word) : Vector Word 8 :=
  let temp1 := v[7] + bigSigma1 v[4] + ch v[4] v[5] v[6] + k + w
  let temp2 := bigSigma0 v[0] + maj v[0] v[1] v[2]
  #v[temp1 + temp2, v[0], v[1], v[2], v[3] + temp1, v[4], v[5], v[6]]

/-- Word-for-word addition of two register files (R142), each word wrapping on its own. -/
def addWords (x y : Vector Word 8) : Vector Word 8 := Vector.ofFn fun i => x[i] + y[i]

/-- `BE32` (R13). -/
def be32 (b0 b1 b2 b3 : Byte) : Word := b0 ++ b1 ++ b2 ++ b3

/-- `BE64` (R14): most significant byte first. -/
def be64 (n : BitVec 64) : List Byte :=
  [n.extractLsb' 56 8, n.extractLsb' 48 8, n.extractLsb' 40 8, n.extractLsb' 32 8,
   n.extractLsb' 24 8, n.extractLsb' 16 8, n.extractLsb' 8 8, n.extractLsb' 0 8]

/-- The number of zero bytes of the padding, `z = (55 − L) mod 64` (R120). -/
def padZeros (len : Nat) : Nat := ((55 - (len : Int)) % 64).toNat

/-- The length field: `BE64((8 · L) mod 2^64)` (R120, R124). -/
def lengthField (len : Nat) : List Byte := be64 (BitVec.ofNat 64 (8 * len))

/-- `pad(M)` (R120). -/
def padMessage (m : List Byte) : List Byte :=
  m ++ [0x80] ++ List.replicate (padZeros m.length) 0x00 ++ lengthField m.length

/-- The ASCII code of `hexdigit(n)` (R200). -/
def hexDigitCode (n : BitVec 4) : Byte :=
  if n.toNat ≤ 9 then 0x30 + n.setWidth 8 else 0x61 + (n.setWidth 8 - 10)

/-- Character `k` of `format(H)` as a byte (R201): the digit of `H[k div 8][4n+3 : 4n]`, `n = 7 − (k mod 8)`. -/
def formatByte (hs : Vector Word 8) (k : Fin 64) : Byte :=
  hexDigitCode ((hs[k.val / 8]'(by omega)).extractLsb' (4 * (7 - k.val % 8)) 4)

end Sys2Proof.Machine
end

