-- ==== Sys2Proof/Machine/Operands.lean ====
section
/-! DEFINITION. The operand forms: what a host address names (20_memory.md R61-R63), the byte stores' reads with their
free values, the schedule words and block bytes a micro-operation reads (30_encoding.md R96), and the byte lanes of a
transaction (R98). -/

namespace Sys2Proof.Machine

/-- The byte listed at an index, if one is. -/
def Memory.read : Memory → Nat → Option Byte
  | [], _ => none
  | (b, x) :: rest, a => if b = a then some x else Memory.read rest a

/-- `MSG[j]` as PAD and RD8 read it: the byte written since reset, else a free value, the same at every read until the
byte is written (I2; log 4). -/
def State.msgByte (s : State) (j : Nat) : Byte := (s.MSG.read j).getD (Config.unwrittenMsgByte s.epoch j)

/-- `P[j]` as LOAD reads it: the byte PAD wrote, else a free value (I3; log 5). -/
def State.padByte (s : State) (j : Nat) : Byte := (s.P.read j).getD (Config.unwrittenPadByte s.epoch j)

/-- The message `MSG[0..MSG_LEN)` PAD reads (R123). -/
def State.message (s : State) : List Byte := (List.range s.MSG_LEN.toNat).map s.msgByte

/-- The address of a location's first byte relative to `BASE` (R61; log 10). -/
def offsetOf (params : Params) (addr : BitVec 32) : Nat := (addr - params.base).toNat

/-- The host address map (R61). -/
def locate (params : Params) (addr : BitVec 32) : Location :=
  let off := offsetOf params addr
  if off = 0x0000 then .ctrl
  else if off = 0x0004 then .status
  else if off = 0x0008 then .msgLen
  else if h : 0x0010 ≤ off ∧ off < 0x0030 ∧ off % 4 = 0 then .digest ⟨(off - 0x0010) / 4, by omega⟩
  else if h : 0x0040 ≤ off ∧ off < 0x0080 then .hex ⟨off - 0x0040, by omega⟩
  else if 0x00010000 ≤ off ∧ off < 0x00010000 + params.msgMaxBytes then .msg (off - 0x00010000)
  else .unmapped

/-- The word LOAD assembles (R162): the four bytes of `P` at `64·BLK + 4·T`, big-endian (R13, R65). -/
def State.blockWord (s : State) : Word :=
  let j := 64 * s.BLK + 4 * s.T.toNat
  be32 (s.padByte j) (s.padByte (j + 1)) (s.padByte (j + 2)) (s.padByte (j + 3))

/-- `W[T − k]` as EXPAND reads it (R163); a free value where there is no such word, which no reachable state reads
(R44; log 8). -/
def State.schedOperand (s : State) (k : Nat) : Word :=
  if k ≤ s.T.toNat then s.W[s.T.toNat - k]'(by have := s.T.isLt; omega) else Config.absentSchedWord s.T.toNat k

/-- `W[T]` as ROUND reads it (R186). -/
def State.schedWord (s : State) : Word := s.W[s.T.toNat]'s.T.isLt

/-- WR8's data: `wdata[7:0]` (R98). -/
def byteLane (wdata : BitVec 32) : Byte := wdata.extractLsb' 0 8

end Sys2Proof.Machine
end

