-- ==== Sys2Proof/Machine/Ops.lean ====
section
/-! DEFINITION. The shared operations over the state: byte-store writes, the sequencer's position, the responses, the
CTRL commands (45_host_interface.md R213-R217), reset (70_reset_and_hazards.md R260), and taking the next event
(20_memory.md R71). The block has no exception to take and none to return from (60_exceptions.md R240, R246, R247). -/

namespace Sys2Proof.Machine

/-- The canonical form of a byte store: indexes strictly rising. -/
abbrev Memory.wf (m : Memory) : Prop := m.Pairwise fun c d => c.1 < d.1

/-- Store one byte, keeping the canonical form. -/
def Memory.write : Memory → Nat → Byte → Memory
  | [], a, x => [(a, x)]
  | (b, y) :: rest, a, x =>
    if a < b then (a, x) :: (b, y) :: rest
    else if a = b then (a, x) :: rest
    else (b, y) :: Memory.write rest a x

/-- Store bytes at consecutive indexes from `a` up. -/
def Memory.writeBytes (m : Memory) : Nat → List Byte → Memory
  | _, [] => m
  | a, x :: xs => (Memory.writeBytes m (a + 1) xs).write a x

/-- `goto (phase, t)` (00_scope.md R15). -/
def State.goto (s : State) (phase : BitVec 4) (t : BitVec 6) : State := { s with PHASE := phase, T := t }

def State.setH (s : State) (hs : Vector Word 8) : State := { s with H := hs }
def State.setV (s : State) (vs : Vector Word 8) : State := { s with v := vs }

/-- `W[T] <- x` (R162, R163). -/
def State.writeSched (s : State) (x : Word) : State := { s with W := s.W.set s.T.toNat x s.T.isLt }

/-- BLK holds `params.blkW` bits (R29; log 7). -/
def State.setBLK (s : State) (n : Nat) : State := { s with BLK := n % 2 ^ s.params.blkW }

/-- NBLK holds `params.blkW` bits (R28; log 7). -/
def State.setNBLK (s : State) (n : Nat) : State := { s with NBLK := n % 2 ^ s.params.blkW }

/-- PLEN holds `params.plenW` bits (R20; log 7). -/
def State.setPLEN (s : State) (n : Nat) : State := { s with PLEN := n % 2 ^ s.params.plenW }

/-- `P[0..n) <- bytes`: the padded buffer has no byte at `PBUF_MAX` or above (R27; log 9). -/
def State.writePad (s : State) (bytes : List Byte) : State :=
  { s with P := s.P.writeBytes 0 (bytes.take s.params.pbufMax) }

/-- `MSG[j] <- x` (R219). -/
def State.writeMsg (s : State) (j : Nat) (x : Byte) : State := { s with MSG := s.MSG.write j x }

def State.setMSG_LEN (s : State) (n : BitVec 32) : State := { s with MSG_LEN := n }
def State.setHEXBUF (s : State) (bytes : Vector Byte 64) : State := { s with HEXBUF := bytes }
def State.setEvents (s : State) (es : List Event) : State := { s with events := es }

/-- `respond OK(d)` (R15, R90). -/
def State.respondOk (s : State) (d : Word) : State := { s with response := some ⟨.ok, d⟩ }

/-- `respond BUSERR` with read data 0 and no other change (R64, R220). -/
def State.respondBusErr (s : State) : State := { s with response := some ⟨.busErr, 0⟩ }

/-- The NOP command (R214). -/
def commandNop (s : State) : State := s

/-- The START command (R215), with the order of checks of R244. -/
def commandStart (s : State) : State :=
  if s.busy then s.setCMDERR
  else if s.MSG_LEN.toNat > s.params.msgMaxBytes then s.setLENERR
  else s.clearErrors.goto PHASE_INIT 0

/-- The ABORT command (R216). -/
def commandAbort (s : State) : State := s.clearErrors.goto PHASE_IDLE 0

/-- An illegal command (R217). -/
def commandIllegal (s : State) : State := s.setCMDERR

/-- What a WR32 to CTRL performs (R213). -/
def performCommand (s : State) (word : BitVec 32) : State :=
  match decodeCommand word with
  | .nop => commandNop s
  | .start => commandStart s
  | .abort => commandAbort s
  | .illegal => commandIllegal s

/-- The reset event (R260): the parameters and the events still to come are not the block's to reset, and the free
values are drawn anew (log 15). -/
def State.takeReset (s : State) : State := State.afterReset s.params s.events (s.epoch + 1)

/-- What the next event asks for: an operation to perform, or a reset. -/
inductive Turn where
  | operation (e : Encoded)
  | reset
deriving DecidableEq, Repr

/-- Take the next event (R71): the engine's turn fetches the micro-operation PHASE names (R37, R95), a transaction its
record. With no event left the host is silent and the engine has every turn (R273; log 1). -/
def fetch (s : State) : Turn × State :=
  match s.events with
  | [] => (.operation (.uop s.PHASE), s)
  | .engine :: es => (.operation (.uop s.PHASE), s.setEvents es)
  | .host record :: es => (.operation (.bus record), s.setEvents es)
  | .reset :: es => (.reset, s.setEvents es)

/-- Make an encoded operation the next one to run (log 12): a record becomes the next transaction, a command word a
WR32 of it to CTRL (R92), a micro-operation code the engine's phase, with the engine's turn next. -/
def State.placeNext (s : State) (e : Encoded) : State :=
  match e with
  | .bus record => s.setEvents (.host record :: s.events)
  | .cmd word => s.setEvents (.host (busRecord .wr32 s.params.base word) :: s.events)
  | .uop phase => { s with PHASE := phase, events := .engine :: s.events }

end Sys2Proof.Machine
end

