-- ==== Sys2Proof/Machine/Bus.lean ====
section
/-! DEFINITION. The host transactions (45_host_interface.md R210-R212, R218-R220). A transaction R61-R63 do not admit
gets BUSERR (R220). -/

namespace Sys2Proof.Machine

/-- RD8 (R218). `wdata` is ignored (R90). -/
def execRd8 (addr _wdata : BitVec 32) (s : State) : Host.Outcome State Fault Refusal :=
  match locate s.params addr with
  | .hex k => .next (s.respondOk ((if s.done then s.HEXBUF[k] else 0x00).setWidth 32))
  | .msg j => .next (s.respondOk ((s.msgByte j).setWidth 32))
  | .ctrl | .status | .msgLen | .digest _ | .unmapped => .next s.respondBusErr

/-- WR8 (R219). -/
def execWr8 (addr wdata : BitVec 32) (s : State) : Host.Outcome State Fault Refusal :=
  match locate s.params addr with
  | .hex _ => .next (s.respondOk 0)
  | .msg j => .next ((if s.busy then s else s.writeMsg j (byteLane wdata)).respondOk 0)
  | .ctrl | .status | .msgLen | .digest _ | .unmapped => .next s.respondBusErr

/-- RD32 (R211). `wdata` is ignored (R90). -/
def execRd32 (addr _wdata : BitVec 32) (s : State) : Host.Outcome State Fault Refusal :=
  match locate s.params addr with
  | .ctrl => .next (s.respondOk 0x00000000)
  | .status => .next (s.respondOk s.statusWord)
  | .msgLen => .next (s.respondOk s.MSG_LEN)
  | .digest i => .next (s.respondOk (if s.done then s.H[i] else 0x00000000))
  | .hex _ | .msg _ | .unmapped => .next s.respondBusErr

/-- WR32 (R212). -/
def execWr32 (addr wdata : BitVec 32) (s : State) : Host.Outcome State Fault Refusal :=
  match locate s.params addr with
  | .ctrl => .next ((performCommand s wdata).respondOk 0)
  | .status => .next (s.respondOk 0)
  | .msgLen => .next ((if s.busy then s else s.setMSG_LEN wdata).respondOk 0)
  | .digest _ => .next (s.respondOk 0)
  | .hex _ | .msg _ | .unmapped => .next s.respondBusErr

end Sys2Proof.Machine
end

