-- ==== Sys2Proof/Machine/Command.lean ====
section
/-! DEFINITION. The CTRL commands as operations of their own: each is the WR32 to CTRL of its word (30_encoding.md R92,
R102), so it ends with that transaction's OK (45_host_interface.md R212; log 11). -/

namespace Sys2Proof.Machine

/-- NOP (R214). -/
def execNop (s : State) : Host.Outcome State Fault Refusal := .next ((commandNop s).respondOk 0)

/-- START (R215). -/
def execStart (s : State) : Host.Outcome State Fault Refusal := .next ((commandStart s).respondOk 0)

/-- ABORT (R216). -/
def execAbort (s : State) : Host.Outcome State Fault Refusal := .next ((commandAbort s).respondOk 0)

/-- ILLEGAL (R217): whatever the word. -/
def execIllegal (_word : BitVec 32) (s : State) : Host.Outcome State Fault Refusal :=
  .next ((commandIllegal s).respondOk 0)

end Sys2Proof.Machine
end

