-- ==== Sys2Proof/Machine/Compressor.lean ====
section
/-! DEFINITION. The round engine's micro-operations, WINIT and ROUND (43_compressor.md R184, R186). -/

namespace Sys2Proof.Machine

/-- WINIT (R184). -/
def execWinit (s : State) : Host.Outcome State Fault Refusal :=
  .next ((s.setV s.H).goto PHASE_ROUND 0)

/-- ROUND t (R186). -/
def execRound (s : State) : Host.Outcome State Fault Refusal :=
  let rounded := s.setV (roundFn s.v (Rom.K[s.T.toNat]'s.T.isLt) s.schedWord)
  if s.T.toNat < 63 then .next (rounded.goto PHASE_ROUND (s.T + 1)) else .next (rounded.goto PHASE_FOLD 0)

end Sys2Proof.Machine
end

