-- ==== Sys2Proof/Machine/Expander.lean ====
section
/-! DEFINITION. The schedule expander's micro-operations, LOAD and EXPAND (42_schedule_expander.md R162, R163). -/

namespace Sys2Proof.Machine

/-- LOAD t (R162). -/
def execLoad (s : State) : Host.Outcome State Fault Refusal :=
  let written := s.writeSched s.blockWord
  if s.T.toNat < 15 then .next (written.goto PHASE_LOAD (s.T + 1)) else .next (written.goto PHASE_EXPAND 16)

/-- EXPAND t (R163). -/
def execExpand (s : State) : Host.Outcome State Fault Refusal :=
  let written := s.writeSched
    (scheduleSum (s.schedOperand 16) (s.schedOperand 15) (s.schedOperand 7) (s.schedOperand 2))
  if s.T.toNat < 63 then .next (written.goto PHASE_EXPAND (s.T + 1)) else .next (written.goto PHASE_WINIT 0)

end Sys2Proof.Machine
end

