-- ==== Sys2Proof/Machine/Formatter.lean ====
section
/-! DEFINITION. The formatter's micro-operation, FINALIZE (44_formatter.md R202). -/

namespace Sys2Proof.Machine

/-- FINALIZE (R202). -/
def execFinalize (s : State) : Host.Outcome State Fault Refusal :=
  .next ((s.setHEXBUF (Vector.ofFn (formatByte s.H))).goto PHASE_DONE 0)

end Sys2Proof.Machine
end

