-- ==== Sys2Proof/Machine/Iterator.lean ====
section
/-! DEFINITION. The block iterator's FOLD (41_block_iterator.md R142), the two codes without a step (R143) and the
reserved codes (30_encoding.md R97). -/

namespace Sys2Proof.Machine

/-- FOLD (R142): the test is on the incremented BLK (C7; log 14). -/
def execFold (s : State) : Host.Outcome State Fault Refusal :=
  let folded := (s.setH (addWords s.H s.v)).setBLK (s.BLK + 1)
  if folded.BLK < folded.NBLK then .next (folded.goto PHASE_LOAD 0) else .next (folded.goto PHASE_FINALIZE 0)

/-- IDLE (R143): the engine's turn passes with no step. -/
def execIdle (s : State) : Host.Outcome State Fault Refusal := .next s

/-- DONE (R143): the engine's turn passes with no step. -/
def execDone (s : State) : Host.Outcome State Fault Refusal := .next s

/-- A reserved code (R97): stuck, with a fault recorded. -/
def execReservedPhase (code : BitVec 4) (_s : State) : Host.Outcome State Fault Refusal :=
  .fault (.stuckReservedPhase code)

end Sys2Proof.Machine
end

