-- ==== Sys2Proof/Machine/Preprocessor.lean ====
section
/-! DEFINITION. The preprocessor's micro-operations, INIT and PAD (40_preprocessor.md R122, R123). -/

namespace Sys2Proof.Machine

/-- INIT (R122). -/
def execInit (s : State) : Host.Outcome State Fault Refusal :=
  .next (((s.setH Rom.IV).setBLK 0).goto PHASE_PAD 0)

/-- PAD (R123): `P[0..PLEN) = pad(MSG[0..MSG_LEN))`, and NBLK from the length just written (log 14). -/
def execPad (s : State) : Host.Outcome State Fault Refusal :=
  let padded := padMessage s.message
  .next ((((s.writePad padded).setPLEN padded.length).setNBLK (padded.length / 64)).goto PHASE_LOAD 0)

end Sys2Proof.Machine
end

