-- ==== Sys2Proof/Machine/Dispatch.lean ====
section
/-! DEFINITION. The dispatcher: one arm per row of spec/opcode_table.json. -/

namespace Sys2Proof.Machine

def exec (i : Instr) (s : State) : Host.Outcome State Fault Refusal :=
  match i with
  | .rd8 addr wdata => Sys2Proof.Machine.execRd8 addr wdata s
  | .wr8 addr wdata => Sys2Proof.Machine.execWr8 addr wdata s
  | .rd32 addr wdata => Sys2Proof.Machine.execRd32 addr wdata s
  | .wr32 addr wdata => Sys2Proof.Machine.execWr32 addr wdata s
  | .nop => Sys2Proof.Machine.execNop s
  | .start => Sys2Proof.Machine.execStart s
  | .abort => Sys2Proof.Machine.execAbort s
  | .illegal word => Sys2Proof.Machine.execIllegal word s
  | .idle => Sys2Proof.Machine.execIdle s
  | .init => Sys2Proof.Machine.execInit s
  | .pad => Sys2Proof.Machine.execPad s
  | .load => Sys2Proof.Machine.execLoad s
  | .expand => Sys2Proof.Machine.execExpand s
  | .winit => Sys2Proof.Machine.execWinit s
  | .round => Sys2Proof.Machine.execRound s
  | .fold => Sys2Proof.Machine.execFold s
  | .finalize => Sys2Proof.Machine.execFinalize s
  | .done => Sys2Proof.Machine.execDone s
  | .reservedPhase code => Sys2Proof.Machine.execReservedPhase code s

end Sys2Proof.Machine
end

