-- ==== Sys2Proof/Machine/Step.lean ====
section
/-! DEFINITION. One step: the next event (20_memory.md R71), an operation or a reset. -/

namespace Sys2Proof.Machine

def step (s : State) : Host.Outcome State Fault Refusal :=
  match fetch s with
  | (.operation e, s') => exec (decode e) s'
  | (.reset, s') => .next s'.takeReset

/-- `s` with a row's bit pattern as the operation the next step runs (log 12); `s` itself where the pattern is no
operation of the table. -/
def State.withFetchWord (s : State) (nbits w : Nat) : State :=
  match encodedOfBits nbits w with
  | .ok e => s.placeNext e
  | .error _ => s

end Sys2Proof.Machine
end

