-- ==== Sys2Proof/Machine/Clock.lean ====
section
/-! DEFINITION. The clocked implementation's cycles as interleavings of the atomic events (20_memory.md R72,
60_exceptions.md R245; log 17). The step function does not use them: a list of cycles is one way to fill the list of
events. -/

namespace Sys2Proof.Machine

/-- A read (R91): RD8 or RD32. -/
def isReadRecord (record : BitVec 66) : Bool :=
  match decodeKind (recordKind record) with
  | .rd8 | .rd32 => true
  | .wr8 | .wr32 => false

/-- One clock cycle: the reset input and at most one transaction (R210). -/
structure Cycle where
  resetAsserted : Bool
  transaction : Option (BitVec 66)
deriving DecidableEq, Repr

/-- The events of one cycle in their order (R72): a read samples the state before the micro-operation, a write takes
effect after it, and reset overrides both (R245). -/
def Cycle.events (c : Cycle) : List Event :=
  if c.resetAsserted then [.reset]
  else match c.transaction with
    | none => [.engine]
    | some record => if isReadRecord record then [.host record, .engine] else [.engine, .host record]

/-- The events of a run of cycles. -/
def clockedEvents (cs : List Cycle) : List Event := cs.flatMap Cycle.events

end Sys2Proof.Machine
end

