-- ==== Sys2Proof/Machine/Reference.lean ====
section
/-! DEFINITION. The reference function (41_block_iterator.md R145) with the functions it is made of (42_schedule_expander.md
R164, 44_formatter.md R201), on messages as lists of bytes. No step uses them: claims compare the machine with them. -/

namespace Sys2Proof.Machine

/-- Block `k` of a padded buffer (R140): `P[64k .. 64k + 64)`. -/
def blockOf (p : List Byte) (k : Nat) : List Byte := (p.drop (64 * k)).take 64

/-- `schedule(B)[t]` from the words before it (R164). -/
def nextScheduleWord (b : List Byte) (ws : List Word) (t : Nat) : Word :=
  if t < 16 then be32 (b.getD (4 * t) 0) (b.getD (4 * t + 1) 0) (b.getD (4 * t + 2) 0) (b.getD (4 * t + 3) 0)
  else scheduleSum (ws.getD (t - 16) 0) (ws.getD (t - 15) 0) (ws.getD (t - 7) 0) (ws.getD (t - 2) 0)

/-- The first `n` schedule words of a block. -/
def scheduleUpTo (b : List Byte) : Nat → List Word
  | 0 => []
  | n + 1 => let ws := scheduleUpTo b n; ws ++ [nextScheduleWord b ws n]

/-- `schedule(B)` (R164), for a 64-byte block. -/
def schedule (b : List Byte) : List Word := scheduleUpTo b 64

/-- The working variables after `n` rounds (R145, R185), for a block's schedule. -/
def roundsUpTo (ws : List Word) (v : Vector Word 8) : Nat → Vector Word 8
  | 0 => v
  | n + 1 => roundFn (roundsUpTo ws v n) (Rom.K.toList.getD n 0) (ws.getD n 0)

/-- `compress(Hin, B)` (R145). -/
def compress (hs : Vector Word 8) (b : List Byte) : Vector Word 8 := addWords hs (roundsUpTo (schedule b) hs 64)

/-- The running hash state after the first `n` blocks of a padded buffer (R145, R141). -/
def hashAfterBlocks (p : List Byte) : Nat → Vector Word 8
  | 0 => Rom.IV
  | n + 1 => compress (hashAfterBlocks p n) (blockOf p n)

/-- `sha256_words(M)` (R145). -/
def sha256Words (m : List Byte) : Vector Word 8 := hashAfterBlocks (padMessage m) ((padMessage m).length / 64)

/-- `NBLK(L)` (40_preprocessor.md R121). -/
def blocksFor (len : Nat) : Nat := (len + 8) / 64 + 1

/-- `hexdigit(n)` (R200). -/
def hexDigit (n : Nat) : Char := ['0', '1', '2', '3', '4', '5', '6', '7', '8', '9', 'a', 'b', 'c', 'd', 'e', 'f'].getD n '0'

/-- A word as exactly 8 digits, most significant nibble first (R201). -/
def formatWord (x : Word) : List Char :=
  [7, 6, 5, 4, 3, 2, 1, 0].map fun n => hexDigit (x.toNat / 16 ^ n % 16)

/-- `format(H)` (R201): the words' digits in word order, no separator. -/
def formatHash (hs : Vector Word 8) : List Char := hs.toList.flatMap formatWord

/-- `hash(M)` (R145). -/
def hashText (m : List Byte) : List Char := formatHash (sha256Words m)

/-- The ASCII code of a character of the digest. -/
def asciiCode (c : Char) : Byte := BitVec.ofNat 8 c.toNat

end Sys2Proof.Machine
end

