-- ==== Sys2Proof/Machine/HostProgram.lean ====
section
/-! DEFINITION. Host programs: the pseudo-instructions and their expansions (30_encoding.md R102), the printed form of a
transaction (R101) and the micro-operation trace line (R103). A program is a list of transactions (log 22). -/

namespace Sys2Proof.Machine

/-- The host address of an offset of the map (20_memory.md R61). -/
def hostAddr (params : Params) (off : Nat) : BitVec 32 := params.base + BitVec.ofNat 32 off

/-- `MSG+j` (R101). -/
def msgAddr (params : Params) (j : Nat) : BitVec 32 := hostAddr params (0x00010000 + j)

/-- The pseudo-instructions of R102. WAITDONE is one poll: the loop is the host's. -/
inductive Pseudo where
  | nop
  | start
  | abort
  | setLen (n : BitVec 32)
  | putMsg (bytes : List Byte)
  | waitDone
  | getDigest
  | getHex
deriving DecidableEq, Repr

/-- `WR8 MSG+j, b` for consecutive bytes. -/
def putBytes (params : Params) (j : Nat) : List Byte → List Instr
  | [] => []
  | b :: bs => .wr8 (msgAddr params j) (b.setWidth 32) :: putBytes params (j + 1) bs

/-- The expansion of a pseudo-instruction (R102). -/
def Pseudo.expand (params : Params) : Pseudo → List Instr
  | .nop => [.wr32 (hostAddr params 0x0000) 0x00000000]
  | .start => [.wr32 (hostAddr params 0x0000) 0x00000001]
  | .abort => [.wr32 (hostAddr params 0x0000) 0x00000002]
  | .setLen n => [.wr32 (hostAddr params 0x0008) n]
  | .putMsg bytes => putBytes params 0 bytes ++ [.wr32 (hostAddr params 0x0008) (BitVec.ofNat 32 bytes.length)]
  | .waitDone => [.rd32 (hostAddr params 0x0004) 0]
  | .getDigest => (List.range 8).map fun i => .rd32 (hostAddr params (0x0010 + 4 * i)) 0
  | .getHex => (List.range 64).map fun k => .rd8 (hostAddr params (0x0040 + k)) 0

/-- The event that performs a transaction; the other operations are no transaction of the host's. -/
def transactionEvent : Instr → Option Event
  | .rd8 addr wdata => some (.host (busRecord .rd8 addr wdata))
  | .wr8 addr wdata => some (.host (busRecord .wr8 addr wdata))
  | .rd32 addr wdata => some (.host (busRecord .rd32 addr wdata))
  | .wr32 addr wdata => some (.host (busRecord .wr32 addr wdata))
  | .nop | .start | .abort | .illegal _ => none
  | .idle | .init | .pad | .load | .expand | .winit | .round | .fold | .finalize | .done => none
  | .reservedPhase _ => none

/-- The events of a host program, in issue order. -/
def programEvents (params : Params) (ps : List Pseudo) : List Event :=
  (ps.flatMap (Pseudo.expand params)).filterMap transactionEvent

/-- A word as a hexadecimal numeral of R101. -/
def hexNumeral (x : Word) : String := "0x" ++ String.ofList (formatWord x)

/-- A byte as a hexadecimal numeral of R101. -/
def hexByte (x : Byte) : String := "0x" ++ String.ofList ((formatWord (x.setWidth 32)).drop 6)

/-- A transaction's line (R101); the other operations have none. -/
def hostLine : Instr → Option String
  | .rd8 addr _ => some ("RD8   " ++ hexNumeral addr)
  | .wr8 addr wdata => some ("WR8   " ++ hexNumeral addr ++ ", " ++ hexByte (byteLane wdata))
  | .rd32 addr _ => some ("RD32  " ++ hexNumeral addr)
  | .wr32 addr wdata => some ("WR32  " ++ hexNumeral addr ++ ", " ++ hexNumeral wdata)
  | .nop | .start | .abort | .illegal _ => none
  | .idle | .init | .pad | .load | .expand | .winit | .round | .fold | .finalize | .done => none
  | .reservedPhase _ => none

/-- The trace line of the micro-operation the engine performs next (R103); IDLE and DONE never appear. -/
def State.traceLine (s : State) : Option String :=
  match decodeUop s.PHASE with
  | .init => some "INIT"
  | .pad => some "PAD"
  | .load => some ("LOAD " ++ toString s.BLK ++ "," ++ toString s.T.toNat)
  | .expand => some ("EXPAND " ++ toString s.BLK ++ "," ++ toString s.T.toNat)
  | .winit => some ("WINIT " ++ toString s.BLK)
  | .round => some ("ROUND " ++ toString s.BLK ++ "," ++ toString s.T.toNat)
  | .fold => some ("FOLD " ++ toString s.BLK)
  | .finalize => some "FINALIZE"
  | .idle | .done | .reservedPhase _ => none
  | .rd8 _ _ | .wr8 _ _ | .rd32 _ _ | .wr32 _ _ | .nop | .start | .abort | .illegal _ => none

end Sys2Proof.Machine
end

