-- ==== Sys2Proof/Machine/System.lean ====
section
/-! DEFINITION. A system of several instances (60_exceptions.md R251, 10_state.md R20; log 18): each has its own state,
parameters and base, and none sees another. `NUM_INSTANCES` is the length of the list. -/

namespace Sys2Proof.Machine

/-- One instance of the system takes one step. Where that step is stuck in a reserved phase (R97), the system's step ends
with that instance's fault and answers no states; what becomes of the other instances then the spec does not say, and
this outcome is the model's choice (log 24, DESIGN CHOICE). -/
def systemStep (sys : List State) (k : Fin sys.length) : Host.Outcome (List State) Fault Refusal :=
  match step sys[k] with
  | .next s => .next (sys.set k s)
  | .fault why => .fault why
  | .refused why => .refused why

end Sys2Proof.Machine
end

