-- ==== Sys2Proof/Safety.lean ====
section
/-! DEFINITION. What counts as a safe run of SHA256-CORE: the invariants of 10_state.md R44 and R45 as predicates on one
state, and the words claims use for runs and for the events that end a computation. -/

namespace Sys2Proof.Machine

/-- `k` steps of the machine. -/
abbrev run (k : Nat) (s : State) : Host.Outcome State Fault Refusal := Sys2Proof.core.run k s

/-- The byte stores are in canonical form and hold no byte outside `MSG[0..MSG_MAX_BYTES)` and `P[0..PBUF_MAX)`
(R27, R35). -/
structure StoresInv (s : State) : Prop where
  msg_wf : s.MSG.wf
  pad_wf : s.P.wf
  msg_bound : ∀ c ∈ s.MSG, c.1 < s.params.msgMaxBytes
  pad_bound : ∀ c ∈ s.P, c.1 < s.params.pbufMax

/-- The reachable sequencer states: the first three bullets of R44, R29's range of BLK, and what R144 and R215 add that
makes them inductive (BLK = 0 in PAD, BLK = NBLK from FINALIZE on, the accepted length while busy). -/
structure SequencerInv (s : State) : Prop where
  phase_legal : s.PHASE.toNat ≤ 9
  t_load : s.PHASE = PHASE_LOAD → s.T.toNat < 16
  t_expand : s.PHASE = PHASE_EXPAND → 16 ≤ s.T.toNat
  t_zero : s.PHASE ≠ PHASE_LOAD → s.PHASE ≠ PHASE_EXPAND → s.PHASE ≠ PHASE_ROUND → s.T = 0
  plen_width : s.PLEN < 2 ^ s.params.plenW
  nblk_le : s.NBLK ≤ s.params.nblkMax
  blk_le : s.BLK ≤ s.NBLK
  blk_pad : s.PHASE = PHASE_PAD → s.BLK = 0
  len_ok : s.busy = true → s.MSG_LEN.toNat ≤ s.params.msgMaxBytes
  processing : 3 ≤ s.PHASE.toNat → s.PHASE.toNat ≤ 7 → s.BLK < s.NBLK ∧ s.PLEN = 64 * s.NBLK
  finished : s.PHASE = PHASE_FINALIZE ∨ s.PHASE = PHASE_DONE → s.BLK = s.NBLK

/-- The padded message of the computation under way. MSG and MSG_LEN are frozen while it runs (R70). -/
def State.padded (s : State) : List Byte := padMessage s.message

/-- The schedule of the block under way (R140, R164). -/
def State.blockSchedule (s : State) : List Word := schedule (blockOf s.padded s.BLK)

/-- What the datapath holds in each phase of a computation: the last two bullets of R44 and R45, said by values. The
words below an index are those of the reference functions (R145). -/
structure ComputationInv (s : State) : Prop where
  /-- INIT has written `H`. -/
  seeded : s.PHASE = PHASE_PAD → s.H = Rom.IV
  /-- PAD has written `P` and NBLK. -/
  padded : 3 ≤ s.PHASE.toNat → s.PHASE.toNat ≤ 8 →
    s.NBLK = s.padded.length / 64 ∧ ∀ j < s.padded.length, s.P.read j = s.padded[j]?
  /-- `H` is the chaining value of the blocks before the current one (R141). -/
  chained : 3 ≤ s.PHASE.toNat → s.PHASE.toNat ≤ 8 → s.H = hashAfterBlocks s.padded s.BLK
  /-- LOAD and EXPAND have written the words below `T` (R45). -/
  scheduled : s.PHASE = PHASE_LOAD ∨ s.PHASE = PHASE_EXPAND →
    ∀ i : Fin 64, i.val < s.T.toNat → s.W[i] = s.blockSchedule.getD i 0
  /-- Every schedule word is written before the rounds (R45). -/
  scheduleDone : 5 ≤ s.PHASE.toNat → s.PHASE.toNat ≤ 7 → ∀ i : Fin 64, s.W[i] = s.blockSchedule.getD i 0
  /-- The working variables are those of the rounds done. -/
  rounding : s.PHASE = PHASE_ROUND → s.v = roundsUpTo s.blockSchedule s.H s.T.toNat
  rounded : s.PHASE = PHASE_FOLD → s.v = roundsUpTo s.blockSchedule s.H 64
  /-- FINALIZE has rendered `H`. -/
  formatted : s.PHASE = PHASE_DONE → s.HEXBUF.toList = (formatHash s.H).map asciiCode

/-- The three together. -/
structure Inv (s : State) : Prop where
  stores : StoresInv s
  sequencer : SequencerInv s
  computation : ComputationInv s

/-- The event is the host's ABORT (R216) or a reset (R260): what may take a computation away. -/
def Event.abandons (params : Params) : Event → Bool
  | .engine => false
  | .host record => decide (decodeBus record = .wr32 params.base 2)
  | .reset => true

/-- The event is the host's START (R215). -/
def Event.starts (params : Params) : Event → Bool
  | .engine => false
  | .host record => decide (decodeBus record = .wr32 params.base 1)
  | .reset => false

/-- A START performed now would be accepted (R215). -/
def State.acceptsStart (s : State) : Bool := !s.busy && decide (s.MSG_LEN.toNat ≤ s.params.msgMaxBytes)

/-- Two states a host cannot tell apart (R46, R222): they agree on everything but the hidden registers, and on `H` and
`HEXBUF` where these are shown. -/
structure SameToHost (s s' : State) : Prop where
  phase : s.PHASE = s'.PHASE
  t : s.T = s'.T
  cmderr : s.CMDERR = s'.CMDERR
  lenerr : s.LENERR = s'.LENERR
  msgLen : s.MSG_LEN = s'.MSG_LEN
  msg : s.MSG = s'.MSG
  params : s.params = s'.params
  epoch : s.epoch = s'.epoch
  response : s.response = s'.response
  hash : s.done = true → s.H = s'.H
  hex : s.done = true → s.HEXBUF = s'.HEXBUF

end Sys2Proof.Machine
end

