-- ==== Sys2Proof/Certificates/Slice0/Obligations.lean ====
section
/-! DEFINITION. The statements about the model, for the provers. -/

open Sys2Proof Sys2Proof.Machine

/-! ## Encodings -/

/-- Every well-formed operation, with every operand, is read back from its encoding's bits. -/
def Obligations.DecodeOfEncode : Prop :=
  ∀ i : Instr, i.wf = true → decodeTableWord (encode i).width (encode i).bits = some i

/-- Every bit pattern of every format stands for exactly one operation: its reading is well-formed and encodes to it. -/
def Obligations.EncodeOfDecode : Prop :=
  ∀ e : Encoded, (decode e).wf = true ∧ encode (decode e) = e

/-- R94 with R93: the command of every 32-bit value, by the value and by its fields. -/
def Obligations.CommandOfEveryWord : Prop :=
  ∀ w : BitVec 32,
    (w.toNat / 16 ≠ 0 → decodeCommand w = .illegal) ∧
    (w.toNat / 16 = 0 → w.toNat % 16 = 0 → decodeCommand w = .nop) ∧
    (w.toNat / 16 = 0 → w.toNat % 16 = 1 → decodeCommand w = .start) ∧
    (w.toNat / 16 = 0 → w.toNat % 16 = 2 → decodeCommand w = .abort) ∧
    (w.toNat / 16 = 0 → 3 ≤ w.toNat % 16 → decodeCommand w = .illegal)

/-- Words written out from R90-R95 (some are lines of 95_test_vectors.md V10 and P2) decode to what they stand for. -/
def Obligations.WrittenWordsDecode : Prop :=
  decodeTableWord 66 0x00000004000000000 = some (.rd8 0x40 0) ∧
  decodeTableWord 66 0x10001000000000061 = some (.wr8 0x10000 0x61) ∧
  decodeTableWord 66 0x20000001000000000 = some (.rd32 0x10 0) ∧
  decodeTableWord 66 0x30000000800000003 = some (.wr32 0x8 3) ∧
  decodeTableWord 32 0x00000000 = some .nop ∧
  decodeTableWord 32 0x00000001 = some .start ∧
  decodeTableWord 32 0x00000002 = some .abort ∧
  decodeTableWord 32 0x00000011 = some (.illegal 0x11) ∧
  decodeTableWord 4 0x0 = some .idle ∧
  decodeTableWord 4 0x3 = some .load ∧
  decodeTableWord 4 0x6 = some .round ∧
  decodeTableWord 4 0xC = some (.reservedPhase 0xC)

/-- A step runs the decoded operation: the next transaction's record, or on the engine's turn the micro-operation PHASE
names, at the state with the event taken; a reset is taken. That the events to come are a list, and that the engine has
the turn once the list is empty, is the model's choice of form (log 1), no sentence of the spec. -/
def Obligations.StepRunsNextEvent : Prop :=
  (∀ s : State, s.events = [] → step s = exec (decodeUop s.PHASE) s) ∧
  (∀ (s : State) (es : List Event), s.events = .engine :: es →
    step s = exec (decodeUop s.PHASE) { s with events := es }) ∧
  (∀ (s : State) (record : BitVec 66) (es : List Event), s.events = .host record :: es →
    step s = exec (decodeBus record) { s with events := es }) ∧
  (∀ (s : State) (es : List Event), s.events = .reset :: es → step s = .next (State.takeReset { s with events := es }))

/-- A table row's bit pattern, placed as the next operation, is what the next step runs. -/
def Obligations.PlacedWordRuns : Prop :=
  (∀ (s : State) (r : BitVec 66), step (s.withFetchWord 66 r.toNat) = exec (decodeBus r) s) ∧
  (∀ (s : State) (w : BitVec 32), step (s.withFetchWord 32 w.toNat) = exec (decodeCmd w) s) ∧
  (∀ (s : State) (p : BitVec 4), step (s.withFetchWord 4 p.toNat) = exec (decodeUop p) { s with PHASE := p })

/-! ## Host transactions -/

/-- R211: RD32 of every register it admits, with whatever write data. -/
def Obligations.Rd32Values : Prop :=
  ∀ (s : State) (d : BitVec 32),
    exec (.rd32 (hostAddr s.params 0x0000) d) s = .next { s with response := some ⟨.ok, 0x00000000⟩ } ∧
    exec (.rd32 (hostAddr s.params 0x0004) d) s = .next { s with response := some ⟨.ok,
      BitVec.ofNat 32 (s.T.toNat * 2 ^ 8 + s.PHASE.toNat * 2 ^ 4 + s.LENERR.toNat * 2 ^ 3 + s.CMDERR.toNat * 2 ^ 2
        + (if s.PHASE = 9 then 2 else 0) + (if 1 ≤ s.PHASE.toNat ∧ s.PHASE.toNat ≤ 8 then 1 else 0))⟩ } ∧
    exec (.rd32 (hostAddr s.params 0x0008) d) s = .next { s with response := some ⟨.ok, s.MSG_LEN⟩ } ∧
    ∀ i : Fin 8, exec (.rd32 (hostAddr s.params (0x0010 + 4 * i)) d) s =
      .next { s with response := some ⟨.ok, if s.PHASE = 9 then s.H[i] else 0x00000000⟩ }

/-- R218: RD8 of every byte it admits. A MSG byte not written since reset reads as a free value (I2; log 4), of which
nothing is said. -/
def Obligations.Rd8Values : Prop :=
  ∀ (s : State) (d : BitVec 32),
    (∀ k : Fin 64, exec (.rd8 (hostAddr s.params (0x0040 + k)) d) s =
      .next { s with response := some ⟨.ok, if s.PHASE = 9 then (s.HEXBUF[k]).setWidth 32 else 0⟩ }) ∧
    (s.params.wf → ∀ j < s.params.msgMaxBytes,
      (∀ b, s.MSG.read j = some b →
        exec (.rd8 (msgAddr s.params j) d) s = .next { s with response := some ⟨.ok, b.setWidth 32⟩ }) ∧
      (s.MSG.read j = none → ∃ b : Byte,
        exec (.rd8 (msgAddr s.params j) d) s = .next { s with response := some ⟨.ok, b.setWidth 32⟩ }))

/-- R212: WR32 of every register it admits; CTRL performs the command of R213. -/
def Obligations.Wr32Effects : Prop :=
  ∀ (s : State) (d : BitVec 32),
    exec (.wr32 (hostAddr s.params 0x0000) d) s = exec (decodeCmd d) s ∧
    exec (.wr32 (hostAddr s.params 0x0004) d) s = .next { s with response := some ⟨.ok, 0⟩ } ∧
    (¬(1 ≤ s.PHASE.toNat ∧ s.PHASE.toNat ≤ 8) → exec (.wr32 (hostAddr s.params 0x0008) d) s =
      .next { s with MSG_LEN := d, response := some ⟨.ok, 0⟩ }) ∧
    ((1 ≤ s.PHASE.toNat ∧ s.PHASE.toNat ≤ 8) → exec (.wr32 (hostAddr s.params 0x0008) d) s =
      .next { s with response := some ⟨.ok, 0⟩ }) ∧
    ∀ i : Fin 8, exec (.wr32 (hostAddr s.params (0x0010 + 4 * i)) d) s = .next { s with response := some ⟨.ok, 0⟩ }

/-- R219: WR8 of every byte it admits, and its frame: every other MSG byte reads as before. -/
def Obligations.Wr8Effects : Prop :=
  ∀ (s : State) (d : BitVec 32),
    (∀ k : Fin 64, exec (.wr8 (hostAddr s.params (0x0040 + k)) d) s =
      .next { s with response := some ⟨.ok, 0⟩ }) ∧
    (s.params.wf → ∀ j < s.params.msgMaxBytes,
      ((1 ≤ s.PHASE.toNat ∧ s.PHASE.toNat ≤ 8) →
        exec (.wr8 (msgAddr s.params j) d) s = .next { s with response := some ⟨.ok, 0⟩ }) ∧
      (¬(1 ≤ s.PHASE.toNat ∧ s.PHASE.toNat ≤ 8) → ∃ m : Memory,
        exec (.wr8 (msgAddr s.params j) d) s = .next { s with MSG := m, response := some ⟨.ok, 0⟩ } ∧
        m.read j = some (BitVec.ofNat 8 (d.toNat % 256)) ∧ ∀ a, a ≠ j → m.read a = s.MSG.read a))

/-- R64 and R220, with R62 and R63: every transaction the map does not admit gets BUSERR, read data 0, and changes no
state of the block. `off` is the address relative to `BASE`, as R61 counts. -/
def Obligations.NotAdmittedGetsBusErr : Prop :=
  ∀ (s : State) (off d : BitVec 32),
    (¬(off.toNat % 4 = 0 ∧
        (off.toNat ∈ [0x0000, 0x0004, 0x0008] ∨ 0x0010 ≤ off.toNat ∧ off.toNat < 0x0030)) →
      exec (.rd32 (s.params.base + off) d) s = .next { s with response := some ⟨.busErr, 0⟩ } ∧
      exec (.wr32 (s.params.base + off) d) s = .next { s with response := some ⟨.busErr, 0⟩ }) ∧
    (¬(0x0040 ≤ off.toNat ∧ off.toNat < 0x0080 ∨
        0x00010000 ≤ off.toNat ∧ off.toNat < 0x00010000 + s.params.msgMaxBytes) →
      exec (.rd8 (s.params.base + off) d) s = .next { s with response := some ⟨.busErr, 0⟩ } ∧
      exec (.wr8 (s.params.base + off) d) s = .next { s with response := some ⟨.busErr, 0⟩ })

/-- R68: a read answers at every address and changes nothing but the response; its write data is ignored (R90). -/
def Obligations.ReadsHaveNoSideEffects : Prop :=
  ∀ (s : State) (addr : BitVec 32), ∃ r r' : Response,
    (∀ d, exec (.rd32 addr d) s = .next { s with response := some r }) ∧
    (∀ d, exec (.rd8 addr d) s = .next { s with response := some r' })

/-! ## Commands -/

/-- R214: NOP has no effect; the write gets OK. -/
def Obligations.NopChangesNothing : Prop :=
  ∀ s : State, exec .nop s = .next { s with response := some ⟨.ok, 0⟩ }

/-- R215: the three outcomes of START, each with everything it leaves alone. -/
def Obligations.StartOutcomes : Prop :=
  ∀ s : State,
    ((1 ≤ s.PHASE.toNat ∧ s.PHASE.toNat ≤ 8) →
      exec .start s = .next { s with CMDERR := true, response := some ⟨.ok, 0⟩ }) ∧
    (¬(1 ≤ s.PHASE.toNat ∧ s.PHASE.toNat ≤ 8) → s.params.msgMaxBytes < s.MSG_LEN.toNat →
      exec .start s = .next { s with LENERR := true, response := some ⟨.ok, 0⟩ }) ∧
    (¬(1 ≤ s.PHASE.toNat ∧ s.PHASE.toNat ≤ 8) → s.MSG_LEN.toNat ≤ s.params.msgMaxBytes →
      exec .start s = .next { s with
        CMDERR := false, LENERR := false, PHASE := 1, T := 0, response := some ⟨.ok, 0⟩ })

/-- R216: ABORT goes to (IDLE, 0), clears the flags and leaves everything else. -/
def Obligations.AbortOutcome : Prop :=
  ∀ s : State, exec .abort s = .next { s with
    CMDERR := false, LENERR := false, PHASE := 0, T := 0, response := some ⟨.ok, 0⟩ }

/-- R217: an illegal command sets CMDERR and changes nothing else, whatever its word. -/
def Obligations.IllegalOutcome : Prop :=
  ∀ (s : State) (w : BitVec 32), exec (.illegal w) s = .next { s with CMDERR := true, response := some ⟨.ok, 0⟩ }

/-- R244: the order of the checks of one CTRL write, and that it sets at most one flag. -/
def Obligations.CtrlWritePriority : Prop :=
  ∀ (s : State) (w : BitVec 32),
    (w.toNat / 16 ≠ 0 ∨ 3 ≤ w.toNat % 16 →
      exec (.wr32 s.params.base w) s = .next { s with CMDERR := true, response := some ⟨.ok, 0⟩ }) ∧
    (w = 1 → (1 ≤ s.PHASE.toNat ∧ s.PHASE.toNat ≤ 8) →
      exec (.wr32 s.params.base w) s = .next { s with CMDERR := true, response := some ⟨.ok, 0⟩ }) ∧
    (w = 1 → ¬(1 ≤ s.PHASE.toNat ∧ s.PHASE.toNat ≤ 8) → s.params.msgMaxBytes < s.MSG_LEN.toNat →
      exec (.wr32 s.params.base w) s = .next { s with LENERR := true, response := some ⟨.ok, 0⟩ }) ∧
    (w = 1 → ¬(1 ≤ s.PHASE.toNat ∧ s.PHASE.toNat ≤ 8) → s.MSG_LEN.toNat ≤ s.params.msgMaxBytes →
      exec (.wr32 s.params.base w) s = exec .start s) ∧
    (w = 0 → exec (.wr32 s.params.base w) s = exec .nop s) ∧
    (w = 2 → exec (.wr32 s.params.base w) s = exec .abort s) ∧
    ∃ t, exec (.wr32 s.params.base w) s = .next t ∧
      ¬((s.CMDERR = false ∧ t.CMDERR = true) ∧ (s.LENERR = false ∧ t.LENERR = true))

/-- The error flags fall only at an accepted START, an ABORT or a reset (60_exceptions.md §4, D20). -/
def Obligations.ErrorFlagsFallOnlyThere : Prop :=
  ∀ s t : State, step s = .next t →
    (s.CMDERR = true ∧ t.CMDERR = false) ∨ (s.LENERR = true ∧ t.LENERR = false) →
    ∃ e es, s.events = e :: es ∧ (e.abandons s.params = true ∨
      (e.starts s.params = true ∧ s.acceptsStart = true))

/-! ## Micro-operations -/

/-- R143: IDLE and DONE have no step. The engine's turn passes and nothing of the block changes; an empty list of events
is the host's silence (log 1). -/
def Obligations.IdleAndDoneHaveNoStep : Prop :=
  ∀ s : State,
    exec .idle s = .next s ∧ exec .done s = .next s ∧
    (s.PHASE = 0 ∨ s.PHASE = 9 →
      (s.events = [] → step s = .next s) ∧
      ∀ es, s.events = .engine :: es → step s = .next { s with events := es })

/-- R122: INIT seeds `H`, clears BLK and goes to (PAD, 0). -/
def Obligations.InitOutcome : Prop :=
  ∀ s : State, exec .init s = .next { s with
    H := #v[0x6a09e667, 0xbb67ae85, 0x3c6ef372, 0xa54ff53a, 0x510e527f, 0x9b05688c, 0x1f83d9ab, 0x5be0cd19],
    BLK := 0, PHASE := 2, T := 0 }

/-- R123: PAD, for a length START accepts: the padded buffer byte by byte, PLEN, NBLK, the next position, and the frame:
every byte of `P` from PLEN up reads as before. -/
def Obligations.PadOutcome : Prop :=
  ∀ (s : State) (L z : Nat), L = s.MSG_LEN.toNat → L ≤ s.params.msgMaxBytes → z = ((55 - (L : Int)) % 64).toNat →
    ∃ p : Memory,
      exec .pad s = .next { s with P := p, PLEN := L + 9 + z, NBLK := (L + 9 + z) / 64, PHASE := 3, T := 0 } ∧
      (∀ j < L, p.read j = some (s.msgByte j)) ∧
      p.read L = some 0x80 ∧
      (∀ j, L + 1 ≤ j → j < L + 1 + z → p.read j = some 0x00) ∧
      (∀ j < 8, p.read (L + 1 + z + j) = some (BitVec.ofNat 8 (8 * L % 2 ^ 64 / 256 ^ (7 - j)))) ∧
      ∀ j, L + 9 + z ≤ j → p.read j = s.P.read j

/-- R162: LOAD writes `W[T]` with the big-endian word at `64·BLK + 4·T` and leaves the other words; the next position. -/
def Obligations.LoadOutcome : Prop :=
  ∀ s : State, ∃ w : Vector Word 64,
    (∀ i : Fin 64, (i.val ≠ s.T.toNat → w[i] = s.W[i]) ∧
      (i.val = s.T.toNat → w[i].toNat =
        (s.padByte (64 * s.BLK + 4 * s.T.toNat)).toNat * 2 ^ 24 +
        (s.padByte (64 * s.BLK + 4 * s.T.toNat + 1)).toNat * 2 ^ 16 +
        (s.padByte (64 * s.BLK + 4 * s.T.toNat + 2)).toNat * 2 ^ 8 +
        (s.padByte (64 * s.BLK + 4 * s.T.toNat + 3)).toNat)) ∧
    (s.T.toNat < 15 → exec .load s = .next { s with W := w, PHASE := 3, T := s.T + 1 }) ∧
    (¬s.T.toNat < 15 → exec .load s = .next { s with W := w, PHASE := 4, T := 16 })

/-- R163: EXPAND, for the indexes it is given (16..63): `W[T]` from four earlier words, the other words left alone, the
next position. -/
def Obligations.ExpandOutcome : Prop :=
  ∀ (s : State) (t : Nat) (_h : 16 ≤ t) (_h' : t < 64), s.T.toNat = t → ∃ w : Vector Word 64,
    (∀ i : Fin 64, i.val ≠ t → w[i] = s.W[i]) ∧
    w[t] = s.W[t - 16]
      + ((s.W[t - 15]).rotateRight 7 ^^^ (s.W[t - 15]).rotateRight 18 ^^^ (s.W[t - 15] >>> 3))
      + s.W[t - 7]
      + ((s.W[t - 2]).rotateRight 17 ^^^ (s.W[t - 2]).rotateRight 19 ^^^ (s.W[t - 2] >>> 10)) ∧
    (t < 63 → exec .expand s = .next { s with W := w, PHASE := 4, T := s.T + 1 }) ∧
    (t = 63 → exec .expand s = .next { s with W := w, PHASE := 5, T := 0 })

/-- R184: WINIT loads the working variables from `H`. -/
def Obligations.WinitOutcome : Prop :=
  ∀ s : State, exec .winit s = .next { s with v := s.H, PHASE := 6, T := 0 }

/-- R186 with R185: ROUND, variable by variable, and the next position. -/
def Obligations.RoundOutcome : Prop :=
  ∀ (s : State) (a b c d e f g h temp1 temp2 : Word) (t : Nat) (_h : t < 64), s.T.toNat = t →
    s.v = #v[a, b, c, d, e, f, g, h] →
    temp1 = h + (e.rotateRight 6 ^^^ e.rotateRight 11 ^^^ e.rotateRight 25) + ((e &&& f) ^^^ (~~~e &&& g))
      + Rom.K[t] + s.W[t] →
    temp2 = (a.rotateRight 2 ^^^ a.rotateRight 13 ^^^ a.rotateRight 22) + ((a &&& b) ^^^ (a &&& c) ^^^ (b &&& c)) →
    (t < 63 → exec .round s = .next { s with
      v := #v[temp1 + temp2, a, b, c, d + temp1, e, f, g], PHASE := 6, T := s.T + 1 }) ∧
    (t = 63 → exec .round s = .next { s with
      v := #v[temp1 + temp2, a, b, c, d + temp1, e, f, g], PHASE := 7, T := 0 })

/-- R142: FOLD, where the incremented BLK fits its register: eight additions, each wrapping on its own, and the choice
of the next block or FINALIZE. -/
def Obligations.FoldOutcome : Prop :=
  ∀ s : State, s.BLK + 1 < 2 ^ s.params.blkW → ∃ hs : Vector Word 8,
    (∀ i : Fin 8, hs[i].toNat = (s.H[i].toNat + s.v[i].toNat) % 2 ^ 32) ∧
    (s.BLK + 1 < s.NBLK → exec .fold s = .next { s with H := hs, BLK := s.BLK + 1, PHASE := 3, T := 0 }) ∧
    (¬s.BLK + 1 < s.NBLK → exec .fold s = .next { s with H := hs, BLK := s.BLK + 1, PHASE := 8, T := 0 })

/-- R202 with R200 and R201: FINALIZE writes the ASCII codes of the digest's 64 characters and goes to (DONE, 0). -/
def Obligations.FinalizeOutcome : Prop :=
  ∀ s : State, ∃ hex : Vector Byte 64,
    exec .finalize s = .next { s with HEXBUF := hex, PHASE := 9, T := 0 } ∧
    hex.toList = (formatHash s.H).map asciiCode ∧
    ∀ k : Fin 64, ∃ n : Nat, n = (s.H[k.val / 8]'(by omega)).toNat / 16 ^ (7 - k.val % 8) % 16 ∧
      hex[k].toNat = if n ≤ 9 then 0x30 + n else 0x61 + (n - 10)

/-- The forms no reachable state runs still answer a next state, with the model's choice of value (logs 7, 8, 9): EXPAND
below index 16, PAD with a length START refuses, FOLD where BLK fills its register. What else each does is as its
rule says. -/
def Obligations.UnreachedFormsComplete : Prop :=
  (∀ s : State, s.T.toNat < 16 → ∃ w : Vector Word 64,
    exec .expand s = .next { s with W := w, PHASE := 4, T := s.T + 1 } ∧
    ∀ i : Fin 64, i.val ≠ s.T.toNat → w[i] = s.W[i]) ∧
  (∀ s : State, s.params.msgMaxBytes < s.MSG_LEN.toNat → ∃ (p : Memory) (plen nblk : Nat),
    exec .pad s = .next { s with P := p, PLEN := plen, NBLK := nblk, PHASE := 3, T := 0 } ∧
    plen < 2 ^ s.params.plenW ∧ nblk < 2 ^ s.params.blkW ∧ ∀ j, s.params.pbufMax ≤ j → p.read j = s.P.read j) ∧
  (∀ s : State, ∃ (hs : Vector Word 8) (blk : Nat) (phase : BitVec 4),
    exec .fold s = .next { s with H := hs, BLK := blk, PHASE := phase, T := 0 } ∧
    blk = (s.BLK + 1) % 2 ^ s.params.blkW ∧ (phase = 3 ∨ phase = 8) ∧
    ∀ i : Fin 8, hs[i] = s.H[i] + s.v[i])

/-- R97: a reserved code has no micro-operation: the engine's turn, which is also that of an empty list of events (log 1),
stops with the fault recorded. No step reaches one. -/
def Obligations.ReservedPhaseIsStuck : Prop :=
  (∀ (s : State) (code : BitVec 4), exec (.reservedPhase code) s = .fault (.stuckReservedPhase code)) ∧
  (∀ s : State, 0xA ≤ s.PHASE.toNat → (s.events = [] ∨ ∃ es, s.events = .engine :: es) →
    step s = .fault (.stuckReservedPhase s.PHASE)) ∧
  State.reset.PHASE.toNat < 0xA ∧
  (∀ s t : State, s.PHASE.toNat < 0xA → step s = .next t → t.PHASE.toNat < 0xA)

/-- R144: the sequencer position after each micro-operation, from every state of R44, and after the host's commands. -/
def Obligations.TransitionTable : Prop :=
  ∀ s : State, SequencerInv s → ∃ t, exec (decodeUop s.PHASE) s = .next t ∧
    (s.PHASE = 1 → t.PHASE = 2 ∧ t.T = 0 ∧ t.BLK = 0) ∧
    (s.PHASE = 2 → t.PHASE = 3 ∧ t.T = 0 ∧ t.BLK = s.BLK) ∧
    (s.PHASE = 3 → s.T.toNat < 15 → t.PHASE = 3 ∧ t.T.toNat = s.T.toNat + 1 ∧ t.BLK = s.BLK) ∧
    (s.PHASE = 3 → s.T.toNat = 15 → t.PHASE = 4 ∧ t.T = 16 ∧ t.BLK = s.BLK) ∧
    (s.PHASE = 4 → s.T.toNat < 63 → t.PHASE = 4 ∧ t.T.toNat = s.T.toNat + 1 ∧ t.BLK = s.BLK) ∧
    (s.PHASE = 4 → s.T.toNat = 63 → t.PHASE = 5 ∧ t.T = 0 ∧ t.BLK = s.BLK) ∧
    (s.PHASE = 5 → t.PHASE = 6 ∧ t.T = 0 ∧ t.BLK = s.BLK) ∧
    (s.PHASE = 6 → s.T.toNat < 63 → t.PHASE = 6 ∧ t.T.toNat = s.T.toNat + 1 ∧ t.BLK = s.BLK) ∧
    (s.PHASE = 6 → s.T.toNat = 63 → t.PHASE = 7 ∧ t.T = 0 ∧ t.BLK = s.BLK) ∧
    (s.PHASE = 7 → s.BLK + 1 < s.NBLK → t.PHASE = 3 ∧ t.T = 0 ∧ t.BLK = s.BLK + 1) ∧
    (s.PHASE = 7 → s.BLK + 1 = s.NBLK → t.PHASE = 8 ∧ t.T = 0 ∧ t.BLK = s.NBLK) ∧
    (s.PHASE = 8 → t.PHASE = 9 ∧ t.T = 0 ∧ t.BLK = s.BLK) ∧
    (s.PHASE = 0 ∨ s.PHASE = 9 → t = s) ∧
    (s.busy = false → s.MSG_LEN.toNat ≤ s.params.msgMaxBytes → ∃ u, exec .start s = .next u ∧ u.PHASE = 1 ∧ u.T = 0) ∧
    (∃ u, exec .abort s = .next u ∧ u.PHASE = 0 ∧ u.T = 0)

/-- What every micro-operation leaves alone: the flags, MSG_LEN, every byte of MSG, the parameters, the response, the
events to come and the reset count (10_state.md R20, R32-R35, R38). -/
def Obligations.EngineLeavesHostState : Prop :=
  ∀ (s t : State) (i : Instr),
    i ∈ [Instr.idle, .init, .pad, .load, .expand, .winit, .round, .fold, .finalize, .done] → exec i s = .next t →
    t.CMDERR = s.CMDERR ∧ t.LENERR = s.LENERR ∧ t.MSG_LEN = s.MSG_LEN ∧ (∀ j, t.MSG.read j = s.MSG.read j) ∧
    (∀ j, t.msgByte j = s.msgByte j) ∧ t.params = s.params ∧ t.response = s.response ∧ t.events = s.events ∧
    t.epoch = s.epoch

/-- Who writes what: each element of R20's inventory is unchanged by every operation that the table does not list as its
writer (the ROMs are constants, log 13). The model's own fields but the response, the parameters, the events to come and
the reset count (logs 1, 3, 6), are changed by no operation. -/
def Obligations.OnlyWritersWrite : Prop :=
  ∀ (s t : State) (i : Instr), exec i s = .next t →
    (i ∉ [Instr.init, .fold] → t.H = s.H) ∧
    (i ∉ [Instr.winit, .round] → t.v = s.v) ∧
    (i ∉ [Instr.load, .expand] → t.W = s.W) ∧
    (i ≠ .pad → (∀ j, t.P.read j = s.P.read j) ∧ t.PLEN = s.PLEN ∧ t.NBLK = s.NBLK) ∧
    (i ∉ [Instr.init, .fold] → t.BLK = s.BLK) ∧
    (i ∉ [Instr.init, .pad, .load, .expand, .winit, .round, .fold, .finalize, .start, .abort] →
      (∀ d, i ≠ .wr32 (hostAddr s.params 0x0000) d) → t.T = s.T ∧ t.PHASE = s.PHASE) ∧
    (i ∉ [Instr.start, .abort] → (∀ w, i ≠ .illegal w) → (∀ d, i ≠ .wr32 (hostAddr s.params 0x0000) d) →
      t.CMDERR = s.CMDERR) ∧
    (i ∉ [Instr.start, .abort] → (∀ d, i ≠ .wr32 (hostAddr s.params 0x0000) d) → t.LENERR = s.LENERR) ∧
    ((∀ d, i ≠ .wr32 (hostAddr s.params 0x0008) d) → t.MSG_LEN = s.MSG_LEN) ∧
    ((∀ addr d, i ≠ .wr8 addr d) → ∀ j, t.MSG.read j = s.MSG.read j) ∧
    (i ≠ .finalize → t.HEXBUF = s.HEXBUF) ∧
    t.params = s.params ∧ t.events = s.events ∧ t.epoch = s.epoch

/-! ## Reset -/

/-- R261: what the host sees after a reset, whatever the unspecified values: STATUS, MSG_LEN, CTRL, DIGEST and HEX read
as 0, and a MSG byte as some byte. -/
def Obligations.ResetAsHostSeesIt : Prop :=
  ∀ (p : Params) (es : List Event) (n : Nat) (s : State), s = State.afterReset p es n →
    exec (.rd32 (hostAddr p 0x0000) 0) s = .next { s with response := some ⟨.ok, 0⟩ } ∧
    exec (.rd32 (hostAddr p 0x0004) 0) s = .next { s with response := some ⟨.ok, 0⟩ } ∧
    exec (.rd32 (hostAddr p 0x0008) 0) s = .next { s with response := some ⟨.ok, 0⟩ } ∧
    (∀ i : Fin 8, exec (.rd32 (hostAddr p (0x0010 + 4 * i)) 0) s = .next { s with response := some ⟨.ok, 0⟩ }) ∧
    (∀ k : Fin 64, exec (.rd8 (hostAddr p (0x0040 + k)) 0) s = .next { s with response := some ⟨.ok, 0⟩ }) ∧
    (p.wf → ∀ j < p.msgMaxBytes, ∃ b : Byte,
      exec (.rd8 (msgAddr p j) 0) s = .next { s with response := some ⟨.ok, b.setWidth 32⟩ })

/-- R260: a reset at any state sets the sequencer, the flags and MSG_LEN. -/
def Obligations.ResetEventOutcome : Prop :=
  ∀ (s : State) (es : List Event), s.events = .reset :: es → ∃ t, step s = .next t ∧
    t.PHASE = 0 ∧ t.T = 0 ∧ t.BLK = 0 ∧ t.NBLK = 0 ∧ t.CMDERR = false ∧ t.LENERR = false ∧ t.MSG_LEN = 0

/-- The invariants hold right after reset, in every configuration. -/
def Obligations.ResetMeetsInvariants : Prop :=
  ∀ (p : Params) (es : List Event) (n : Nat), Inv (State.afterReset p es n)

/-! ## Invariants and whole-machine rules -/

/-- Every step keeps the byte stores inside their buffers (R27, R35) and in the canonical form, which is the model's choice
(log 19). -/
def Obligations.StoresInvKept : Prop :=
  ∀ s t : State, StoresInv s → step s = .next t → StoresInv t

/-- Every step keeps the sequencer's invariant (R44). -/
def Obligations.SequencerInvKept : Prop :=
  ∀ s t : State, SequencerInv s → step s = .next t → SequencerInv t

/-- Every step keeps what the datapath holds: the chaining values, the schedule words, the working variables and the
digest characters are those of the reference functions (R44, R45, R145). -/
def Obligations.ComputationInvKept : Prop :=
  ∀ s t : State, SequencerInv s → ComputationInv s → step s = .next t → ComputationInv t

/-- R240: the engine raises no exception: from every state of R44 every step answers a next state. -/
def Obligations.NoStepStops : Prop :=
  ∀ s : State, SequencerInv s → ∃ t, step s = .next t

/-- R70: while busy, no step but a reset changes a message byte or the length. -/
def Obligations.MessageFrozenWhileBusy : Prop :=
  ∀ s t : State, s.busy = true → (∀ es, s.events ≠ .reset :: es) → step s = .next t →
    t.MSG = s.MSG ∧ t.MSG_LEN = s.MSG_LEN ∧ t.message = s.message

/-- R73: once done, every later read of DIGEST and HEX gives this computation's value, after any number of steps none of
which takes an accepted START, an ABORT or a reset. A START refused for length in DONE (R215, R242) ends nothing. -/
def Obligations.ResultStaysReadable : Prop :=
  ∀ (s t : State) (k : Nat), s.done = true → run k s = .next t →
    (∀ n < k, ∀ u e es, run n s = .next u → u.events = e :: es →
      e.abandons u.params = false ∧ (e.starts u.params = true → u.acceptsStart = false)) →
    t.done = true ∧
    (∀ i : Fin 8, exec (.rd32 (hostAddr s.params (0x0010 + 4 * i)) 0) t =
      .next { t with response := some ⟨.ok, s.H[i]⟩ }) ∧
    (∀ k : Fin 64, exec (.rd8 (hostAddr s.params (0x0040 + k)) 0) t =
      .next { t with response := some ⟨.ok, (s.HEXBUF[k]).setWidth 32⟩ })

/-- R222: two states a host cannot tell apart answer every transaction alike and stay so: neither `H` before DONE nor
`v`, `W`, `P`, PLEN, NBLK and BLK at all can be read, by any sequence of transactions. -/
def Obligations.NothingHiddenIsReadable : Prop :=
  ∀ (s s' : State) (record : BitVec 66), SameToHost s s' →
    ∃ t t', exec (decodeBus record) s = .next t ∧ exec (decodeBus record) s' = .next t' ∧ SameToHost t t'

/-- R261, its last sentence: what `H`, `v`, `W`, `P`, PLEN and `HEXBUF` hold in IDLE (after a reset, say) never reaches the
host. Two states that differ there only answer alike after any number of steps, whatever the host and the engine do. -/
def Obligations.HiddenValuesStayHidden : Prop :=
  ∀ (s s' : State) (hs vs : Vector Word 8) (ws : Vector Word 64) (p : Memory) (plen : Nat) (hex : Vector Byte 64)
    (k : Nat),
    SequencerInv s → s.PHASE = PHASE_IDLE →
    s' = { s with H := hs, v := vs, W := ws, P := p, PLEN := plen, HEXBUF := hex } →
    ∃ t t', run k s = .next t ∧ run k s' = .next t' ∧ SameToHost t t'

/-! ## Functions -/

/-- R10: bit `i` of a right rotation is bit `i + n`, counted round. -/
def Obligations.RotationTurnsBits : Prop :=
  ∀ (x : Word) (n : Nat) (h : 1 ≤ n ∧ n ≤ 31) (i : Nat), i < 32 →
    (rotr x n h).getLsbD i = x.getLsbD ((i + n) % 32)

/-- R160, R161, R180-R183, bit by bit: the four sigmas (a shift's bits come from above or are 0), the choice Ch and the
majority Maj. -/
def Obligations.DatapathBitByBit : Prop :=
  ∀ (x y z : Word) (i : Nat), i < 32 →
    (sigma0 x).getLsbD i =
      ((x.getLsbD ((i + 7) % 32) ^^ x.getLsbD ((i + 18) % 32)) ^^ (decide (i + 3 < 32) && x.getLsbD (i + 3))) ∧
    (sigma1 x).getLsbD i =
      ((x.getLsbD ((i + 17) % 32) ^^ x.getLsbD ((i + 19) % 32)) ^^ (decide (i + 10 < 32) && x.getLsbD (i + 10))) ∧
    (bigSigma0 x).getLsbD i =
      ((x.getLsbD ((i + 2) % 32) ^^ x.getLsbD ((i + 13) % 32)) ^^ x.getLsbD ((i + 22) % 32)) ∧
    (bigSigma1 x).getLsbD i =
      ((x.getLsbD ((i + 6) % 32) ^^ x.getLsbD ((i + 11) % 32)) ^^ x.getLsbD ((i + 25) % 32)) ∧
    (ch x y z).getLsbD i = (if x.getLsbD i then y.getLsbD i else z.getLsbD i) ∧
    (maj x y z).getLsbD i = decide (2 ≤ (x.getLsbD i).toNat + (y.getLsbD i).toNat + (z.getLsbD i).toNat)

/-- R13, R14: big-endian assembly of a word and big-endian bytes of a 64-bit number. -/
def Obligations.BigEndianBytes : Prop :=
  (∀ b0 b1 b2 b3 : Byte,
    (be32 b0 b1 b2 b3).toNat = b0.toNat * 2 ^ 24 + b1.toNat * 2 ^ 16 + b2.toNat * 2 ^ 8 + b3.toNat) ∧
  (∀ n : BitVec 64, (be64 n).length = 8 ∧
    ∀ j < 8, (be64 n)[j]? = some (BitVec.ofNat 8 (n.toNat / 256 ^ (7 - j))))

/-- R120: `pad(M)`, byte by byte: the message, 0x80, z zeros, the big-endian bit length. -/
def Obligations.PaddingBytes : Prop :=
  ∀ (m : List Byte) (L z : Nat), L = m.length → z = ((55 - (L : Int)) % 64).toNat →
    (padMessage m).length = L + 9 + z ∧
    (∀ j < L, (padMessage m)[j]? = m[j]?) ∧
    (padMessage m)[L]? = some 0x80 ∧
    (∀ j, L < j → j < L + 1 + z → (padMessage m)[j]? = some 0x00) ∧
    (∀ j < 8, (padMessage m)[L + 1 + z + j]? = some (BitVec.ofNat 8 (8 * L % 2 ^ 64 / 256 ^ (7 - j)))) ∧
    (∀ z' < z, (L + 1 + z' + 8) % 64 ≠ 0)

/-- R121: the sizes of a padded message. -/
def Obligations.PaddingSizes : Prop :=
  ∀ (m : List Byte) (L n : Nat), L = m.length → n = (padMessage m).length →
    n = L + 9 + padZeros L ∧ n % 64 = 0 ∧ 64 ≤ n ∧ n / 64 = (L + 8) / 64 + 1 ∧
    (∀ k, 1 ≤ k → (n / 64 = k ↔ 64 * (k - 1) ≤ L + 8 ∧ L + 9 ≤ 64 * k)) ∧
    (padZeros L = 0 ↔ L % 64 = 55) ∧ (padZeros L = 63 ↔ L % 64 = 56) ∧
    (∀ j < 8, (padMessage m)[n - 8 + j]? = (lengthField L)[j]?) ∧
    (padMessage m)[L]? = some 0x80 ∧ (L / 64 = n / 64 - 1 ∨ L / 64 = n / 64 - 2)

/-- R124: with a 32-bit length the modulus never takes effect: the first three bytes of the length field are 0 and the
fourth is at most 7. -/
def Obligations.LengthFieldTopBytes : Prop :=
  ∀ len : BitVec 32, 8 * len.toNat < 2 ^ 35 ∧
    (∀ j < 3, (lengthField len.toNat)[j]? = some 0x00) ∧
    ∃ b : Byte, (lengthField len.toNat)[3]? = some b ∧ b.toNat ≤ 7

/-- R164: the schedule of a 64-byte block satisfies the source's recurrence. -/
def Obligations.ScheduleRecurrence : Prop :=
  ∀ b : List Byte, b.length = 64 → (schedule b).length = 64 ∧
    (∀ t < 16, ∀ b0 b1 b2 b3, b[4 * t]? = some b0 → b[4 * t + 1]? = some b1 → b[4 * t + 2]? = some b2 →
      b[4 * t + 3]? = some b3 → (schedule b)[t]? = some (be32 b0 b1 b2 b3)) ∧
    (∀ t, 16 ≤ t → t < 64 → ∀ w16 w15 w7 w2, (schedule b)[t - 16]? = some w16 → (schedule b)[t - 15]? = some w15 →
      (schedule b)[t - 7]? = some w7 → (schedule b)[t - 2]? = some w2 →
      (schedule b)[t]? = some (w16 + sigma0 w15 + w7 + sigma1 w2))

/-- R24, R25: the ROMs hold the first 32 bits of the fractional parts of the cube and square roots of the first primes. -/
def Obligations.RomsAreRootFractions : Prop :=
  (∀ t : Fin 64, ∃ n : Nat,
    (n * 2 ^ 32 + Rom.K[t].toNat) ^ 3 ≤ Nat.nth Nat.Prime t * 2 ^ 96 ∧
    Nat.nth Nat.Prime t * 2 ^ 96 < (n * 2 ^ 32 + Rom.K[t].toNat + 1) ^ 3) ∧
  (∀ i : Fin 8, ∃ n : Nat,
    (n * 2 ^ 32 + Rom.IV[i].toNat) ^ 2 ≤ Nat.nth Nat.Prime i * 2 ^ 64 ∧
    Nat.nth Nat.Prime i * 2 ^ 64 < (n * 2 ^ 32 + Rom.IV[i].toNat + 1) ^ 2)

/-- The sizes that follow from MSG_MAX_BYTES: NBLK_MAX, PBUF_MAX and BLK_W, the least width that holds NBLK_MAX, as R5
gives them, and PLEN's width, the least that holds every length up to PBUF_MAX, as R20's table gives it. -/
def Obligations.BlockCounterWidth : Prop :=
  ∀ p : Params, p.nblkMax = (p.msgMaxBytes + 8) / 64 + 1 ∧ p.pbufMax = 64 * p.nblkMax ∧
    p.nblkMax < 2 ^ p.blkW ∧ (∀ w < p.blkW, 2 ^ w ≤ p.nblkMax) ∧
    p.pbufMax + 1 ≤ 2 ^ p.plenW ∧ (∀ w < p.plenW, 2 ^ w < p.pbufMax + 1)

/-! ## The computation -/

/-- The 130 micro-operations of one block, with the host silent (no event left, log 1): `W` is the block's schedule and
`H` its compression, whatever `W` and `v` held before (42_schedule_expander.md, R45, R145). -/
def Obligations.BlockIsCompressed : Prop :=
  ∀ (s : State) (block : List Byte), s.PHASE = PHASE_LOAD → s.T = 0 → s.events = [] → s.BLK < s.NBLK →
    s.NBLK ≤ s.params.nblkMax → block = (List.range 64).map (fun j => s.padByte (64 * s.BLK + j)) →
    ∃ t, run 130 s = .next t ∧ t.W.toList = schedule block ∧ t.H = compress s.H block ∧ t.BLK = s.BLK + 1 ∧ t.T = 0 ∧
      t.PHASE = (if s.BLK + 1 < s.NBLK then PHASE_LOAD else PHASE_FINALIZE) ∧
      t = { s with W := t.W, v := t.v, H := t.H, BLK := t.BLK, PHASE := t.PHASE, T := t.T }

/-- R146: a START that is accepted, then exactly `3 + 130 · NBLK(L)` micro-operations of the engine, and the engine is at
(DONE, 0) with `H` the SHA-256 words of the message and `HEXBUF` the ASCII bytes of its hash, whatever host
transactions but ABORT come in between; before the last of them it is busy. -/
def Obligations.EngineComputesHash : Prop :=
  ∀ (s : State) (record : BitVec 66) (before after : List Event),
    s.busy = false → s.MSG_LEN.toNat ≤ s.params.msgMaxBytes →
    decodeBus record = .wr32 s.params.base 0x00000001 →
    s.events = .host record :: before ++ .engine :: after →
    (∀ e ∈ before, e.abandons s.params = false) →
    before.count .engine + 1 = 3 + 130 * blocksFor s.MSG_LEN.toNat →
    (∃ t, run (before.length + 2) s = .next t ∧ t.PHASE = PHASE_DONE ∧ t.T = 0 ∧
      t.H = sha256Words s.message ∧ t.HEXBUF.toList = (hashText s.message).map asciiCode ∧
      t.NBLK = blocksFor s.MSG_LEN.toNat ∧ t.BLK = t.NBLK ∧ t.MSG = s.MSG ∧ t.MSG_LEN = s.MSG_LEN ∧ t.events = after) ∧
    ∀ n, 1 ≤ n → n ≤ before.length + 1 → ∃ u, run n s = .next u ∧ u.busy = true

/-- R102's PUTMSG, from any state not busy (R264, steps 2 and 3): the message and its length are where PAD reads them, and
nothing but them and the response has changed. -/
def Obligations.HostWritesMessage : Prop :=
  ∀ (s : State) (m : List Byte) (rest : List Event),
    s.params.wf → s.busy = false → m.length ≤ s.params.msgMaxBytes →
    s.events = programEvents s.params [.putMsg m] ++ rest →
    ∃ (u : State) (mem : Memory), run (m.length + 1) s = .next u ∧ u.message = m ∧
      (∀ j < m.length, mem.read j = m[j]?) ∧ (∀ j, m.length ≤ j → mem.read j = s.MSG.read j) ∧
      u = { s with MSG := mem, MSG_LEN := BitVec.ofNat 32 m.length, response := some ⟨.ok, 0⟩, events := rest }

/-- R221: the host has written `M` and its length and issues START while the engine is not busy. When the engine has made
its micro-operations, and from then on under any events but START, ABORT and reset, DIGEST reads as the words of
`sha256_words(M)` and HEX as the characters of `hash(M)`. -/
def Obligations.HostObservesHash : Prop :=
  ∀ (s : State) (m : List Byte) (record : BitVec 66) (before later after : List Event),
    s.busy = false → m.length ≤ s.params.msgMaxBytes → s.MSG_LEN.toNat = m.length →
    (∀ j < m.length, s.MSG.read j = m[j]?) →
    decodeBus record = .wr32 s.params.base 0x00000001 →
    s.events = .host record :: before ++ .engine :: later ++ after →
    (∀ e ∈ before, e.abandons s.params = false) →
    before.count .engine + 1 = 3 + 130 * blocksFor m.length →
    (∀ e ∈ later, e.abandons s.params = false ∧ e.starts s.params = false) →
    ∃ t, run (before.length + 2 + later.length) s = .next t ∧ t.done = true ∧ t.events = after ∧
      (∀ i : Fin 8, exec (.rd32 (hostAddr s.params (0x0010 + 4 * i)) 0) t =
        .next { t with response := some ⟨.ok, (sha256Words m)[i]⟩ }) ∧
      (∀ k : Fin 64, ∃ c, (hashText m)[k.val]? = some c ∧
        exec (.rd8 (hostAddr s.params (0x0040 + k)) 0) t =
          .next { t with response := some ⟨.ok, (asciiCode c).setWidth 32⟩ })

/-- R147: the digest depends on the message alone: two computations of equal messages, in any two states and under any two
interleavings, end with the same `H` and `HEXBUF`. -/
def Obligations.DigestDependsOnMessageOnly : Prop :=
  ∀ (s s' : State) (record record' : BitVec 66) (before before' after after' : List Event),
    s.busy = false → s'.busy = false →
    s.MSG_LEN.toNat ≤ s.params.msgMaxBytes → s'.MSG_LEN.toNat ≤ s'.params.msgMaxBytes →
    s.message = s'.message →
    decodeBus record = .wr32 s.params.base 0x00000001 → decodeBus record' = .wr32 s'.params.base 0x00000001 →
    s.events = .host record :: before ++ .engine :: after → s'.events = .host record' :: before' ++ .engine :: after' →
    (∀ e ∈ before, e.abandons s.params = false) → (∀ e ∈ before', e.abandons s'.params = false) →
    before.count .engine + 1 = 3 + 130 * blocksFor s.MSG_LEN.toNat →
    before'.count .engine + 1 = 3 + 130 * blocksFor s'.MSG_LEN.toNat →
    ∃ t t', run (before.length + 2) s = .next t ∧ run (before'.length + 2) s' = .next t' ∧
      t.done = true ∧ t'.done = true ∧ t.H = t'.H ∧ t.HEXBUF = t'.HEXBUF

/-- The text of every hash has exactly 64 characters, each of `[0-9a-f]` (S4, R201, R221). -/
def Obligations.HashTextShape : Prop :=
  ∀ m : List Byte, (hashText m).length = 64 ∧
    ∀ c ∈ hashText m, c ∈ ['0', '1', '2', '3', '4', '5', '6', '7', '8', '9', 'a', 'b', 'c', 'd', 'e', 'f']

/-! ## Interleavings and instances -/

/-- R72 with R245: the order within one clock cycle. A read samples the state before the micro-operation, a write takes
effect on the state it left, and reset overrides both. So an ABORT in the cycle of a micro-operation overrides its next
phase, and a START in the cycle that FINALIZE moves to DONE is accepted. -/
def Obligations.ClockCycleOrder : Prop :=
  ∀ (s : State) (record : BitVec 66) (rest : List Event), SequencerInv s →
    (s.events = Cycle.events ⟨false, some record⟩ ++ rest → isReadRecord record = true →
      ∃ r t, exec (decodeBus record) s = .next { s with response := r } ∧ exec (decodeUop s.PHASE) s = .next t ∧
        run 2 s = .next { t with response := r, events := rest }) ∧
    (s.events = Cycle.events ⟨false, some record⟩ ++ rest → isReadRecord record = false →
      ∃ t t', exec (decodeUop s.PHASE) s = .next t ∧ exec (decodeBus record) { t with events := rest } = .next t' ∧
        run 2 s = .next t') ∧
    (s.events = Cycle.events ⟨true, some record⟩ ++ rest → run 1 s = .next (State.takeReset { s with events := rest })) ∧
    (s.events = Cycle.events ⟨false, some (busRecord .wr32 s.params.base 2)⟩ ++ rest →
      ∃ t, run 2 s = .next t ∧ t.PHASE = PHASE_IDLE ∧ t.T = 0) ∧
    (s.events = Cycle.events ⟨false, some (busRecord .wr32 s.params.base 1)⟩ ++ rest → s.PHASE = PHASE_FINALIZE →
      ∃ t, run 2 s = .next t ∧ t.PHASE = PHASE_INIT ∧ t.T = 0 ∧ t.CMDERR = false ∧ t.LENERR = false)

/-- R251: instances do not communicate: a step of one leaves every other as it was, and is the step it takes alone. -/
def Obligations.InstancesAreIndependent : Prop :=
  ∀ (sys sys' : List State) (k : Fin sys.length), systemStep sys k = .next sys' →
    sys'.length = sys.length ∧ (∃ t, step sys[k] = .next t ∧ sys'[k.val]? = some t) ∧
    ∀ j, j ≠ k.val → sys'[j]? = sys[j]?
end

