-- ==== Sys2Proof/Laws/Datapath.lean ====
section
/-! SUPPORT. The datapath's functions in the forms proofs use: rotations as the library's, byte assembly as sums, the
round function on eight names, and the reference functions' lengths and recursion equations. -/

namespace Sys2Proof.Machine

/-- The rotation of R10 is the library's. -/
theorem rotr_eq_rotateRight (x : Word) (n : Nat) (h : 1 ≤ n ∧ n ≤ 31) : rotr x n h = x.rotateRight n := by
  simp only [rotr, BitVec.rotateRight, BitVec.rotateRightAux]
  rw [Nat.mod_eq_of_lt (by omega)]

/-- A shifted number with a number below the shift in its low bits. -/
theorem shiftLeft_or_eq_add (x : Nat) {y n : Nat} (h : y < 2 ^ n) : x <<< n ||| y = x * 2 ^ n + y := by
  rw [Nat.shiftLeft_eq, Nat.mul_comm]
  exact (Nat.two_pow_add_eq_or_of_lt h x).symm

/-- `BE32` as a sum (R13). -/
theorem be32_toNat (b0 b1 b2 b3 : Byte) :
    (be32 b0 b1 b2 b3).toNat = b0.toNat * 2 ^ 24 + b1.toNat * 2 ^ 16 + b2.toNat * 2 ^ 8 + b3.toNat := by
  unfold be32
  simp only [BitVec.toNat_append]
  rw [shiftLeft_or_eq_add _ b1.isLt, shiftLeft_or_eq_add _ b2.isLt, shiftLeft_or_eq_add _ b3.isLt]
  omega

/-- Byte `j` of `BE64(n)` (R14). -/
theorem be64_getElem? (n : BitVec 64) {j : Nat} (hj : j < 8) :
    (be64 n)[j]? = some (BitVec.ofNat 8 (n.toNat / 256 ^ (7 - j))) := by
  have key (k : Nat) : n.extractLsb' (8 * k) 8 = BitVec.ofNat 8 (n.toNat / 256 ^ k) := by
    apply BitVec.eq_of_toNat_eq
    simp [BitVec.extractLsb'_toNat, Nat.shiftRight_eq_div_pow, Nat.pow_mul]
  unfold be64
  interval_cases j <;> simp only [List.getElem?_cons_succ, List.getElem?_cons_zero] <;> congr 1
  exacts [key 7, key 6, key 5, key 4, key 3, key 2, key 1, key 0]

/-- The round function on named variables (R185). -/
theorem roundFn_mk (a b c d e f g h k w : Word) :
    roundFn #v[a, b, c, d, e, f, g, h] k w =
      #v[h + bigSigma1 e + ch e f g + k + w + (bigSigma0 a + maj a b c), a, b, c,
         d + (h + bigSigma1 e + ch e f g + k + w), e, f, g] := rfl

@[simp] theorem addWords_getElem (x y : Vector Word 8) (i : Nat) (h : i < 8) : (addWords x y)[i] = x[i] + y[i] := by
  simp [addWords]

@[simp] theorem length_scheduleUpTo (b : List Byte) (n : Nat) : (scheduleUpTo b n).length = n := by
  induction n with
  | zero => rfl
  | succ n ih => simp [scheduleUpTo, ih]

@[simp] theorem length_schedule (b : List Byte) : (schedule b).length = 64 := length_scheduleUpTo b 64

/-- A schedule word does not depend on how many words follow it. -/
theorem scheduleUpTo_getElem? (b : List Byte) {n t : Nat} (h : t < n) :
    (scheduleUpTo b n)[t]? = some (nextScheduleWord b (scheduleUpTo b t) t) := by
  induction n with
  | zero => omega
  | succ n ih =>
    rw [scheduleUpTo]
    by_cases e : t = n
    · subst e; simp
    · rw [List.getElem?_append_left (by simp; omega), ih (by omega)]

/-- The words below `t` of the first `t` schedule words are the schedule's. -/
theorem scheduleUpTo_getD (b : List Byte) {t k : Nat} (hk : k < t) (ht : t ≤ 64) :
    (scheduleUpTo b t).getD k 0 = (schedule b).getD k 0 := by
  have e : (scheduleUpTo b t)[k]? = (schedule b)[k]? := by
    unfold schedule
    rw [scheduleUpTo_getElem? b hk, scheduleUpTo_getElem? b (by omega)]
  simp [List.getD, e]

/-- The first sixteen schedule words are the block's (R164). -/
theorem schedule_getD_low (b : List Byte) {t : Nat} (h : t < 16) :
    (schedule b).getD t 0 = be32 (b.getD (4 * t) 0) (b.getD (4 * t + 1) 0) (b.getD (4 * t + 2) 0) (b.getD (4 * t + 3) 0) := by
  have : (schedule b)[t]? = _ := scheduleUpTo_getElem? b (show t < 64 by omega)
  rw [List.getD_eq_getElem?_getD, this]
  simp [nextScheduleWord, h]

/-- The other schedule words are sums of four earlier ones (R164). -/
theorem schedule_getD_high (b : List Byte) {t : Nat} (h : 16 ≤ t) (h' : t < 64) :
    (schedule b).getD t 0 = scheduleSum ((schedule b).getD (t - 16) 0) ((schedule b).getD (t - 15) 0)
      ((schedule b).getD (t - 7) 0) ((schedule b).getD (t - 2) 0) := by
  have : (schedule b)[t]? = _ := scheduleUpTo_getElem? b h'
  rw [List.getD_eq_getElem?_getD, this]
  simp only [nextScheduleWord, if_neg (show ¬t < 16 by omega), Option.getD_some]
  rw [scheduleUpTo_getD b (show t - 16 < t by omega) h'.le, scheduleUpTo_getD b (show t - 15 < t by omega) h'.le,
    scheduleUpTo_getD b (show t - 7 < t by omega) h'.le, scheduleUpTo_getD b (show t - 2 < t by omega) h'.le]

@[simp] theorem length_formatHash (hs : Vector Word 8) : (formatHash hs).length = 64 := by
  simp [formatHash, formatWord, List.length_flatMap]

/-- A word has eight digits. -/
theorem length_formatWord (x : Word) : (formatWord x).length = 8 := rfl

/-- Digit `r` of a word (R201). -/
theorem formatWord_getElem? (x : Word) {r : Nat} (h : r < 8) :
    (formatWord x)[r]? = some (hexDigit (x.toNat / 16 ^ (7 - r) % 16)) := by
  interval_cases r <;> rfl

/-- The digits of a list of words, one after the other. -/
theorem flatMap_formatWord_getElem? (l : List Word) (q : Nat) {r : Nat} (h : r < 8) :
    (l.flatMap formatWord)[8 * q + r]? = l[q]?.map fun x => hexDigit (x.toNat / 16 ^ (7 - r) % 16) := by
  induction l generalizing q with
  | nil => simp
  | cons x l ih =>
    rw [List.flatMap_cons]
    cases q with
    | zero =>
      rw [List.getElem?_append_left (by rw [length_formatWord]; omega), Nat.mul_zero, Nat.zero_add,
        formatWord_getElem? x h]
      rfl
    | succ q =>
      rw [List.getElem?_append_right (by rw [length_formatWord]; omega), length_formatWord,
        show 8 * (q + 1) + r - 8 = 8 * q + r by omega, ih]
      rfl

/-- Character `k` of `format(H)` (R201). -/
theorem formatHash_getElem? (hs : Vector Word 8) (k : Fin 64) :
    (formatHash hs)[k.val]? = some (hexDigit ((hs[k.val / 8]'(by omega)).toNat / 16 ^ (7 - k.val % 8) % 16)) := by
  have := flatMap_formatWord_getElem? hs.toList (k.val / 8) (show k.val % 8 < 8 by omega)
  rw [show 8 * (k.val / 8) + k.val % 8 = k.val by omega] at this
  have in8 : k.val / 8 < 8 := by omega
  rw [formatHash, this]
  simp [in8]

/-- The digit's code is the digit's (R200). -/
theorem hexDigitCode_eq : ∀ n : Fin 16, hexDigitCode (BitVec.ofNat 4 n) = asciiCode (hexDigit n) := by decide

/-- The byte FINALIZE writes at `k` is the code of character `k` (R201, R202). -/
theorem formatByte_eq (hs : Vector Word 8) (k : Fin 64) : formatByte hs k =
    asciiCode (hexDigit ((hs[k.val / 8]'(by omega)).toNat / 16 ^ (7 - k.val % 8) % 16)) := by
  rw [← hexDigitCode_eq ⟨(hs[k.val / 8]'(by omega)).toNat / 16 ^ (7 - k.val % 8) % 16, by omega⟩]
  unfold formatByte
  congr 1
  apply BitVec.eq_of_toNat_eq
  simp [BitVec.extractLsb'_toNat, Nat.shiftRight_eq_div_pow, Nat.pow_mul]

/-- The bytes FINALIZE writes are the codes of `format(H)` (R202). -/
theorem formatBytes_toList (hs : Vector Word 8) :
    (Vector.ofFn (formatByte hs)).toList = (formatHash hs).map asciiCode := by
  apply List.ext_getElem?
  intro i
  by_cases h : i < 64
  · rw [List.getElem?_map, formatHash_getElem? hs ⟨i, h⟩, Option.map_some, ← formatByte_eq hs ⟨i, h⟩]
    simp [h]
  · rw [List.getElem?_eq_none (by simp; omega), List.getElem?_eq_none (by simp; omega)]

end Sys2Proof.Machine
end

