-- ==== Sys2Proof/Laws/Decode.lean ====
section
/-! SUPPORT. The fields of a record built from its fields, and the readings of the encodings of R90-R95. -/

namespace Sys2Proof

/-- A field that lies wholly in the lower part of a concatenation. -/
theorem extractLsb'_append_low {n m : Nat} (x : BitVec n) (y : BitVec m) (start len : Nat) (h : start + len ≤ m) :
    (x ++ y).extractLsb' start len = y.extractLsb' start len := by
  ext i hi
  simp only [BitVec.getElem_extractLsb', BitVec.getLsbD_append]
  rw [if_pos (by omega)]

/-- A field that lies wholly in the upper part of a concatenation. -/
theorem extractLsb'_append_high {n m : Nat} (x : BitVec n) (y : BitVec m) (start len : Nat) :
    (x ++ y).extractLsb' (m + start) len = x.extractLsb' start len := by
  ext i hi
  simp only [BitVec.getElem_extractLsb', BitVec.getLsbD_append]
  rw [if_neg (by omega)]
  congr 1
  omega

@[simp] theorem recordKind_busRecord (k : BusKind) (addr wdata : BitVec 32) :
    recordKind (busRecord k addr wdata) = k.code :=
  (extractLsb'_append_high (k.code ++ addr) wdata 32 2).trans
    ((extractLsb'_append_high k.code addr 0 2).trans BitVec.extractLsb'_eq_self)

@[simp] theorem recordAddr_busRecord (k : BusKind) (addr wdata : BitVec 32) :
    recordAddr (busRecord k addr wdata) = addr :=
  (extractLsb'_append_high (k.code ++ addr) wdata 0 32).trans
    ((extractLsb'_append_low k.code addr 0 32 (by omega)).trans BitVec.extractLsb'_eq_self)

@[simp] theorem recordWdata_busRecord (k : BusKind) (addr wdata : BitVec 32) :
    recordWdata (busRecord k addr wdata) = wdata :=
  (extractLsb'_append_low (k.code ++ addr) wdata 0 32 (by omega)).trans BitVec.extractLsb'_eq_self

@[simp] theorem decodeKind_code (k : BusKind) : decodeKind k.code = k := by cases k <;> decide

@[simp] theorem decodeBus_rd8 (addr wdata : BitVec 32) : decodeBus (busRecord .rd8 addr wdata) = .rd8 addr wdata := by
  simp [decodeBus]

@[simp] theorem decodeBus_wr8 (addr wdata : BitVec 32) : decodeBus (busRecord .wr8 addr wdata) = .wr8 addr wdata := by
  simp [decodeBus]

@[simp] theorem decodeBus_rd32 (addr wdata : BitVec 32) :
    decodeBus (busRecord .rd32 addr wdata) = .rd32 addr wdata := by
  simp [decodeBus]

@[simp] theorem decodeBus_wr32 (addr wdata : BitVec 32) :
    decodeBus (busRecord .wr32 addr wdata) = .wr32 addr wdata := by
  simp [decodeBus]

/-- The fields of a record make it up again. -/
theorem busRecord_fields (record : BitVec 66) (k : BusKind) (h : k.code = recordKind record) :
    busRecord k (recordAddr record) (recordWdata record) = record := by
  unfold busRecord
  rw [h]
  unfold recordKind recordAddr recordWdata
  apply BitVec.eq_of_getLsbD_eq
  intro i hi
  refine (BitVec.getLsbD_append (i := i)).trans ?_
  rw [BitVec.getLsbD_append]
  simp only [BitVec.getLsbD_extractLsb']
  split
  · next low => simp [low]
  · split
    · next low mid => rw [show 32 + (i - 32) = i by omega]; simp [mid]
    · next low mid => rw [show 64 + (i - 32 - 32) = i by omega]; simp; omega

/-- Every transaction record is one of the four kinds, with its own fields. -/
theorem decodeBus_cases (record : BitVec 66) :
    (∃ k : BusKind, k.code = recordKind record ∧ decodeBus record = match k with
      | .rd8 => .rd8 (recordAddr record) (recordWdata record)
      | .wr8 => .wr8 (recordAddr record) (recordWdata record)
      | .rd32 => .rd32 (recordAddr record) (recordWdata record)
      | .wr32 => .wr32 (recordAddr record) (recordWdata record)) := by
  refine ⟨decodeKind (recordKind record), ?_, ?_⟩
  · have all : ∀ c : BitVec 2, (decodeKind c).code = c := by decide
    exact all _
  · unfold decodeBus; cases decodeKind (recordKind record) <;> rfl

/-- The two fields of a command word, by its value. -/
theorem commandFields (word : BitVec 32) :
    (word.extractLsb' 4 28).toNat = word.toNat / 16 ∧ (word.extractLsb' 0 4).toNat = word.toNat % 16 := by
  constructor
  · simp [BitVec.extractLsb'_toNat, Nat.shiftRight_eq_div_pow]; omega
  · simp [BitVec.extractLsb'_toNat]

end Sys2Proof
end

