-- ==== Sys2Proof/Laws/Memory.lean ====
section
/-! SUPPORT. The laws of the byte stores: a read after a write, what a write leaves alone, and that every operation keeps
the canonical form. -/

namespace Sys2Proof.Machine

@[simp] theorem Memory.read_nil (a : Nat) : Memory.read [] a = none := rfl

@[simp] theorem Memory.read_cons (b : Nat) (x : Byte) (rest : Memory) (a : Nat) :
    Memory.read ((b, x) :: rest) a = if b = a then some x else Memory.read rest a := rfl

/-- A read after a write at one index gives the byte written. -/
theorem Memory.read_write_same (m : Memory) (a : Nat) (x : Byte) : (m.write a x).read a = some x := by
  induction m with
  | nil => simp [Memory.write]
  | cons c rest ih =>
    obtain ⟨b, y⟩ := c
    simp only [Memory.write]
    split
    · simp
    · split
      · simp
      · next h₁ h₂ => simp [ih, Ne.symm h₂]

/-- A write leaves every other index alone. -/
theorem Memory.read_write_other (m : Memory) {a a' : Nat} (x : Byte) (h : a' ≠ a) :
    (m.write a x).read a' = m.read a' := by
  induction m with
  | nil => simp [Memory.write, Ne.symm h]
  | cons c rest ih =>
    obtain ⟨b, y⟩ := c
    simp only [Memory.write]
    split
    · simp [Ne.symm h]
    · split
      · next h₁ h₂ => subst h₂; simp [Ne.symm h]
      · simp [ih]

/-- A byte store after a write, in one equation. -/
theorem Memory.read_write (m : Memory) (a a' : Nat) (x : Byte) :
    (m.write a x).read a' = if a' = a then some x else m.read a' := by
  split
  · next h => subst h; exact m.read_write_same _ x
  · next h => exact m.read_write_other x h

/-- A write adds no entry but the one it stores. -/
theorem Memory.mem_write {m : Memory} {a : Nat} {x : Byte} {c : Host.Cell} (h : c ∈ m.write a x) :
    c = (a, x) ∨ c ∈ m := by
  induction m with
  | nil => exact .inl (by simpa [Memory.write] using h)
  | cons d rest ih =>
    obtain ⟨b, y⟩ := d
    simp only [Memory.write] at h
    split at h
    · simpa using h
    · split at h
      · rcases List.mem_cons.mp h with h | h
        · exact .inl h
        · exact .inr (.tail _ h)
      · rcases List.mem_cons.mp h with h | h
        · exact .inr (h ▸ .head _)
        · exact (ih h).imp_right (.tail _)

/-- A write keeps the canonical form. -/
theorem Memory.write_wf {m : Memory} (h : m.wf) (a : Nat) (x : Byte) : (m.write a x).wf := by
  induction m with
  | nil => simp [Memory.write]
  | cons c rest ih =>
    obtain ⟨b, y⟩ := c
    obtain ⟨hb, hrest⟩ := List.pairwise_cons.mp h
    simp only [Memory.write]
    split
    · next hab =>
      refine List.pairwise_cons.mpr ⟨fun d hd => ?_, h⟩
      rcases List.mem_cons.mp hd with rfl | hd
      · exact hab
      · exact hab.trans (hb d hd)
    · split
      · next _ hab => subst hab; exact List.pairwise_cons.mpr ⟨hb, hrest⟩
      · next h₁ h₂ =>
        refine List.pairwise_cons.mpr ⟨fun d hd => ?_, ih hrest⟩
        rcases Memory.mem_write hd with rfl | hd
        · exact lt_of_le_of_ne (Nat.le_of_not_lt h₁) (Ne.symm h₂)
        · exact hb d hd

/-- Storing consecutive bytes, read back in one equation. -/
theorem Memory.read_writeBytes (m : Memory) (a : Nat) (xs : List Byte) (i : Nat) :
    (m.writeBytes a xs).read i = if a ≤ i ∧ i < a + xs.length then xs[i - a]? else m.read i := by
  induction xs generalizing a with
  | nil => simp [Memory.writeBytes]
  | cons x xs ih =>
    rw [Memory.writeBytes, Memory.read_write, ih]
    rcases lt_trichotomy i a with h | h | h
    · rw [if_neg (by omega), if_neg (by omega), if_neg (by omega)]
    · subst h; simp
    · obtain ⟨d, rfl⟩ : ∃ d, i = a + 1 + d := ⟨i - (a + 1), by omega⟩
      have e : a + 1 + d - a = d + 1 := by omega
      rw [if_neg (by omega), e]
      simp only [List.length_cons, List.getElem?_cons_succ, Nat.add_sub_cancel_left]
      by_cases hd : d < xs.length
      · rw [if_pos (by omega), if_pos (by omega)]
      · rw [if_neg (by omega), if_neg (by omega)]

/-- Storing consecutive bytes keeps the canonical form. -/
theorem Memory.writeBytes_wf {m : Memory} (h : m.wf) (a : Nat) (xs : List Byte) : (m.writeBytes a xs).wf := by
  induction xs generalizing a with
  | nil => exact h
  | cons x xs ih => exact Memory.write_wf (ih (a + 1)) a x

/-- Storing consecutive bytes adds no entry but at their indexes. -/
theorem Memory.mem_writeBytes {m : Memory} {a : Nat} {xs : List Byte} {c : Host.Cell}
    (h : c ∈ m.writeBytes a xs) : (a ≤ c.1 ∧ c.1 < a + xs.length) ∨ c ∈ m := by
  induction xs generalizing a with
  | nil => exact .inr h
  | cons x xs ih =>
    rcases Memory.mem_write h with rfl | h
    · exact .inl ⟨le_rfl, by simp⟩
    · refine (ih h).imp_left fun ⟨h₁, h₂⟩ => ⟨by omega, ?_⟩
      simp only [List.length_cons]; omega

/-- An index below every entry is not listed. -/
theorem Memory.read_eq_none {m : Memory} {a : Nat} (h : ∀ c ∈ m, a < c.1) : m.read a = none := by
  induction m with
  | nil => rfl
  | cons c rest ih =>
    obtain ⟨b, y⟩ := c
    have hb : a < b := h (b, y) (.head _)
    simp only [Memory.read_cons, if_neg hb.ne']
    exact ih fun d hd => h d (.tail _ hd)

/-- In canonical form, two byte stores that read alike are equal data. -/
theorem Memory.ext_of_wf {m n : Memory} (hm : m.wf) (hn : n.wf) (h : ∀ a, m.read a = n.read a) : m = n := by
  induction m generalizing n with
  | nil =>
    cases n with
    | nil => rfl
    | cons c rest => obtain ⟨b, y⟩ := c; have := h b; simp at this
  | cons c rest ih =>
    obtain ⟨b, y⟩ := c
    cases n with
    | nil => have := h b; simp at this
    | cons d rest' =>
      obtain ⟨b', y'⟩ := d
      obtain ⟨hb, hrest⟩ := List.pairwise_cons.mp hm
      obtain ⟨hb', hrest'⟩ := List.pairwise_cons.mp hn
      have low : Memory.read rest b = none := Memory.read_eq_none hb
      have low' : Memory.read rest' b' = none := Memory.read_eq_none hb'
      have same : b = b' := by
        rcases lt_trichotomy b b' with hlt | heq | hgt
        · have := h b
          rw [Memory.read_cons, Memory.read_cons, if_pos rfl, if_neg hlt.ne',
            Memory.read_eq_none fun e he => hlt.trans (hb' e he)] at this
          cases this
        · exact heq
        · have := h b'
          rw [Memory.read_cons, Memory.read_cons, if_pos rfl, if_neg hgt.ne',
            Memory.read_eq_none fun e he => hgt.trans (hb e he)] at this
          cases this
      subst same
      have hy : y = y' := by simpa using h b
      subst hy
      congr 1
      refine ih hrest hrest' fun a => ?_
      by_cases ha : b = a
      · subst ha; rw [low, low']
      · simpa [ha] using h a

end Sys2Proof.Machine
end

