-- ==== Sys2Proof/Laws/State.lean ====
section
/-! SUPPORT. One lemma per field per update of State, and the same for the derived reads an update does not touch, so
that no later proof unfolds a record update. -/

namespace Sys2Proof.Machine

variable (s : State)

@[simp] theorem State.goto_H (p : BitVec 4) (t : BitVec 6) : (s.goto p t).H = s.H := rfl
@[simp] theorem State.goto_v (p : BitVec 4) (t : BitVec 6) : (s.goto p t).v = s.v := rfl
@[simp] theorem State.goto_W (p : BitVec 4) (t : BitVec 6) : (s.goto p t).W = s.W := rfl
@[simp] theorem State.goto_P (p : BitVec 4) (t : BitVec 6) : (s.goto p t).P = s.P := rfl
@[simp] theorem State.goto_PLEN (p : BitVec 4) (t : BitVec 6) : (s.goto p t).PLEN = s.PLEN := rfl
@[simp] theorem State.goto_NBLK (p : BitVec 4) (t : BitVec 6) : (s.goto p t).NBLK = s.NBLK := rfl
@[simp] theorem State.goto_BLK (p : BitVec 4) (t : BitVec 6) : (s.goto p t).BLK = s.BLK := rfl
@[simp] theorem State.goto_T (p : BitVec 4) (t : BitVec 6) : (s.goto p t).T = t := rfl
@[simp] theorem State.goto_PHASE (p : BitVec 4) (t : BitVec 6) : (s.goto p t).PHASE = p := rfl
@[simp] theorem State.goto_CMDERR (p : BitVec 4) (t : BitVec 6) : (s.goto p t).CMDERR = s.CMDERR := rfl
@[simp] theorem State.goto_LENERR (p : BitVec 4) (t : BitVec 6) : (s.goto p t).LENERR = s.LENERR := rfl
@[simp] theorem State.goto_MSG_LEN (p : BitVec 4) (t : BitVec 6) : (s.goto p t).MSG_LEN = s.MSG_LEN := rfl
@[simp] theorem State.goto_MSG (p : BitVec 4) (t : BitVec 6) : (s.goto p t).MSG = s.MSG := rfl
@[simp] theorem State.goto_HEXBUF (p : BitVec 4) (t : BitVec 6) : (s.goto p t).HEXBUF = s.HEXBUF := rfl
@[simp] theorem State.goto_params (p : BitVec 4) (t : BitVec 6) : (s.goto p t).params = s.params := rfl
@[simp] theorem State.goto_response (p : BitVec 4) (t : BitVec 6) : (s.goto p t).response = s.response := rfl
@[simp] theorem State.goto_events (p : BitVec 4) (t : BitVec 6) : (s.goto p t).events = s.events := rfl
@[simp] theorem State.goto_epoch (p : BitVec 4) (t : BitVec 6) : (s.goto p t).epoch = s.epoch := rfl
@[simp] theorem State.goto_msgByte (p : BitVec 4) (t : BitVec 6) : (s.goto p t).msgByte = s.msgByte := rfl
@[simp] theorem State.goto_padByte (p : BitVec 4) (t : BitVec 6) : (s.goto p t).padByte = s.padByte := rfl
@[simp] theorem State.goto_message (p : BitVec 4) (t : BitVec 6) : (s.goto p t).message = s.message := rfl

@[simp] theorem State.setH_H (x : Vector Word 8) : (s.setH x).H = x := rfl
@[simp] theorem State.setH_v (x : Vector Word 8) : (s.setH x).v = s.v := rfl
@[simp] theorem State.setH_W (x : Vector Word 8) : (s.setH x).W = s.W := rfl
@[simp] theorem State.setH_P (x : Vector Word 8) : (s.setH x).P = s.P := rfl
@[simp] theorem State.setH_PLEN (x : Vector Word 8) : (s.setH x).PLEN = s.PLEN := rfl
@[simp] theorem State.setH_NBLK (x : Vector Word 8) : (s.setH x).NBLK = s.NBLK := rfl
@[simp] theorem State.setH_BLK (x : Vector Word 8) : (s.setH x).BLK = s.BLK := rfl
@[simp] theorem State.setH_T (x : Vector Word 8) : (s.setH x).T = s.T := rfl
@[simp] theorem State.setH_PHASE (x : Vector Word 8) : (s.setH x).PHASE = s.PHASE := rfl
@[simp] theorem State.setH_CMDERR (x : Vector Word 8) : (s.setH x).CMDERR = s.CMDERR := rfl
@[simp] theorem State.setH_LENERR (x : Vector Word 8) : (s.setH x).LENERR = s.LENERR := rfl
@[simp] theorem State.setH_MSG_LEN (x : Vector Word 8) : (s.setH x).MSG_LEN = s.MSG_LEN := rfl
@[simp] theorem State.setH_MSG (x : Vector Word 8) : (s.setH x).MSG = s.MSG := rfl
@[simp] theorem State.setH_HEXBUF (x : Vector Word 8) : (s.setH x).HEXBUF = s.HEXBUF := rfl
@[simp] theorem State.setH_params (x : Vector Word 8) : (s.setH x).params = s.params := rfl
@[simp] theorem State.setH_response (x : Vector Word 8) : (s.setH x).response = s.response := rfl
@[simp] theorem State.setH_events (x : Vector Word 8) : (s.setH x).events = s.events := rfl
@[simp] theorem State.setH_epoch (x : Vector Word 8) : (s.setH x).epoch = s.epoch := rfl
@[simp] theorem State.setH_busy (x : Vector Word 8) : (s.setH x).busy = s.busy := rfl
@[simp] theorem State.setH_done (x : Vector Word 8) : (s.setH x).done = s.done := rfl
@[simp] theorem State.setH_msgByte (x : Vector Word 8) : (s.setH x).msgByte = s.msgByte := rfl
@[simp] theorem State.setH_padByte (x : Vector Word 8) : (s.setH x).padByte = s.padByte := rfl
@[simp] theorem State.setH_message (x : Vector Word 8) : (s.setH x).message = s.message := rfl

@[simp] theorem State.setV_H (x : Vector Word 8) : (s.setV x).H = s.H := rfl
@[simp] theorem State.setV_v (x : Vector Word 8) : (s.setV x).v = x := rfl
@[simp] theorem State.setV_W (x : Vector Word 8) : (s.setV x).W = s.W := rfl
@[simp] theorem State.setV_P (x : Vector Word 8) : (s.setV x).P = s.P := rfl
@[simp] theorem State.setV_PLEN (x : Vector Word 8) : (s.setV x).PLEN = s.PLEN := rfl
@[simp] theorem State.setV_NBLK (x : Vector Word 8) : (s.setV x).NBLK = s.NBLK := rfl
@[simp] theorem State.setV_BLK (x : Vector Word 8) : (s.setV x).BLK = s.BLK := rfl
@[simp] theorem State.setV_T (x : Vector Word 8) : (s.setV x).T = s.T := rfl
@[simp] theorem State.setV_PHASE (x : Vector Word 8) : (s.setV x).PHASE = s.PHASE := rfl
@[simp] theorem State.setV_CMDERR (x : Vector Word 8) : (s.setV x).CMDERR = s.CMDERR := rfl
@[simp] theorem State.setV_LENERR (x : Vector Word 8) : (s.setV x).LENERR = s.LENERR := rfl
@[simp] theorem State.setV_MSG_LEN (x : Vector Word 8) : (s.setV x).MSG_LEN = s.MSG_LEN := rfl
@[simp] theorem State.setV_MSG (x : Vector Word 8) : (s.setV x).MSG = s.MSG := rfl
@[simp] theorem State.setV_HEXBUF (x : Vector Word 8) : (s.setV x).HEXBUF = s.HEXBUF := rfl
@[simp] theorem State.setV_params (x : Vector Word 8) : (s.setV x).params = s.params := rfl
@[simp] theorem State.setV_response (x : Vector Word 8) : (s.setV x).response = s.response := rfl
@[simp] theorem State.setV_events (x : Vector Word 8) : (s.setV x).events = s.events := rfl
@[simp] theorem State.setV_epoch (x : Vector Word 8) : (s.setV x).epoch = s.epoch := rfl
@[simp] theorem State.setV_busy (x : Vector Word 8) : (s.setV x).busy = s.busy := rfl
@[simp] theorem State.setV_done (x : Vector Word 8) : (s.setV x).done = s.done := rfl
@[simp] theorem State.setV_msgByte (x : Vector Word 8) : (s.setV x).msgByte = s.msgByte := rfl
@[simp] theorem State.setV_padByte (x : Vector Word 8) : (s.setV x).padByte = s.padByte := rfl
@[simp] theorem State.setV_message (x : Vector Word 8) : (s.setV x).message = s.message := rfl

@[simp] theorem State.writeSched_H (x : Word) : (s.writeSched x).H = s.H := rfl
@[simp] theorem State.writeSched_v (x : Word) : (s.writeSched x).v = s.v := rfl
@[simp] theorem State.writeSched_W (x : Word) : (s.writeSched x).W = s.W.set s.T.toNat x s.T.isLt := rfl
@[simp] theorem State.writeSched_P (x : Word) : (s.writeSched x).P = s.P := rfl
@[simp] theorem State.writeSched_PLEN (x : Word) : (s.writeSched x).PLEN = s.PLEN := rfl
@[simp] theorem State.writeSched_NBLK (x : Word) : (s.writeSched x).NBLK = s.NBLK := rfl
@[simp] theorem State.writeSched_BLK (x : Word) : (s.writeSched x).BLK = s.BLK := rfl
@[simp] theorem State.writeSched_T (x : Word) : (s.writeSched x).T = s.T := rfl
@[simp] theorem State.writeSched_PHASE (x : Word) : (s.writeSched x).PHASE = s.PHASE := rfl
@[simp] theorem State.writeSched_CMDERR (x : Word) : (s.writeSched x).CMDERR = s.CMDERR := rfl
@[simp] theorem State.writeSched_LENERR (x : Word) : (s.writeSched x).LENERR = s.LENERR := rfl
@[simp] theorem State.writeSched_MSG_LEN (x : Word) : (s.writeSched x).MSG_LEN = s.MSG_LEN := rfl
@[simp] theorem State.writeSched_MSG (x : Word) : (s.writeSched x).MSG = s.MSG := rfl
@[simp] theorem State.writeSched_HEXBUF (x : Word) : (s.writeSched x).HEXBUF = s.HEXBUF := rfl
@[simp] theorem State.writeSched_params (x : Word) : (s.writeSched x).params = s.params := rfl
@[simp] theorem State.writeSched_response (x : Word) : (s.writeSched x).response = s.response := rfl
@[simp] theorem State.writeSched_events (x : Word) : (s.writeSched x).events = s.events := rfl
@[simp] theorem State.writeSched_epoch (x : Word) : (s.writeSched x).epoch = s.epoch := rfl
@[simp] theorem State.writeSched_busy (x : Word) : (s.writeSched x).busy = s.busy := rfl
@[simp] theorem State.writeSched_done (x : Word) : (s.writeSched x).done = s.done := rfl
@[simp] theorem State.writeSched_msgByte (x : Word) : (s.writeSched x).msgByte = s.msgByte := rfl
@[simp] theorem State.writeSched_padByte (x : Word) : (s.writeSched x).padByte = s.padByte := rfl
@[simp] theorem State.writeSched_message (x : Word) : (s.writeSched x).message = s.message := rfl

@[simp] theorem State.setBLK_H (n : Nat) : (s.setBLK n).H = s.H := rfl
@[simp] theorem State.setBLK_v (n : Nat) : (s.setBLK n).v = s.v := rfl
@[simp] theorem State.setBLK_W (n : Nat) : (s.setBLK n).W = s.W := rfl
@[simp] theorem State.setBLK_P (n : Nat) : (s.setBLK n).P = s.P := rfl
@[simp] theorem State.setBLK_PLEN (n : Nat) : (s.setBLK n).PLEN = s.PLEN := rfl
@[simp] theorem State.setBLK_NBLK (n : Nat) : (s.setBLK n).NBLK = s.NBLK := rfl
@[simp] theorem State.setBLK_BLK (n : Nat) : (s.setBLK n).BLK = n % 2 ^ s.params.blkW := rfl
@[simp] theorem State.setBLK_T (n : Nat) : (s.setBLK n).T = s.T := rfl
@[simp] theorem State.setBLK_PHASE (n : Nat) : (s.setBLK n).PHASE = s.PHASE := rfl
@[simp] theorem State.setBLK_CMDERR (n : Nat) : (s.setBLK n).CMDERR = s.CMDERR := rfl
@[simp] theorem State.setBLK_LENERR (n : Nat) : (s.setBLK n).LENERR = s.LENERR := rfl
@[simp] theorem State.setBLK_MSG_LEN (n : Nat) : (s.setBLK n).MSG_LEN = s.MSG_LEN := rfl
@[simp] theorem State.setBLK_MSG (n : Nat) : (s.setBLK n).MSG = s.MSG := rfl
@[simp] theorem State.setBLK_HEXBUF (n : Nat) : (s.setBLK n).HEXBUF = s.HEXBUF := rfl
@[simp] theorem State.setBLK_params (n : Nat) : (s.setBLK n).params = s.params := rfl
@[simp] theorem State.setBLK_response (n : Nat) : (s.setBLK n).response = s.response := rfl
@[simp] theorem State.setBLK_events (n : Nat) : (s.setBLK n).events = s.events := rfl
@[simp] theorem State.setBLK_epoch (n : Nat) : (s.setBLK n).epoch = s.epoch := rfl
@[simp] theorem State.setBLK_busy (n : Nat) : (s.setBLK n).busy = s.busy := rfl
@[simp] theorem State.setBLK_done (n : Nat) : (s.setBLK n).done = s.done := rfl
@[simp] theorem State.setBLK_msgByte (n : Nat) : (s.setBLK n).msgByte = s.msgByte := rfl
@[simp] theorem State.setBLK_padByte (n : Nat) : (s.setBLK n).padByte = s.padByte := rfl
@[simp] theorem State.setBLK_message (n : Nat) : (s.setBLK n).message = s.message := rfl

@[simp] theorem State.setNBLK_H (n : Nat) : (s.setNBLK n).H = s.H := rfl
@[simp] theorem State.setNBLK_v (n : Nat) : (s.setNBLK n).v = s.v := rfl
@[simp] theorem State.setNBLK_W (n : Nat) : (s.setNBLK n).W = s.W := rfl
@[simp] theorem State.setNBLK_P (n : Nat) : (s.setNBLK n).P = s.P := rfl
@[simp] theorem State.setNBLK_PLEN (n : Nat) : (s.setNBLK n).PLEN = s.PLEN := rfl
@[simp] theorem State.setNBLK_NBLK (n : Nat) : (s.setNBLK n).NBLK = n % 2 ^ s.params.blkW := rfl
@[simp] theorem State.setNBLK_BLK (n : Nat) : (s.setNBLK n).BLK = s.BLK := rfl
@[simp] theorem State.setNBLK_T (n : Nat) : (s.setNBLK n).T = s.T := rfl
@[simp] theorem State.setNBLK_PHASE (n : Nat) : (s.setNBLK n).PHASE = s.PHASE := rfl
@[simp] theorem State.setNBLK_CMDERR (n : Nat) : (s.setNBLK n).CMDERR = s.CMDERR := rfl
@[simp] theorem State.setNBLK_LENERR (n : Nat) : (s.setNBLK n).LENERR = s.LENERR := rfl
@[simp] theorem State.setNBLK_MSG_LEN (n : Nat) : (s.setNBLK n).MSG_LEN = s.MSG_LEN := rfl
@[simp] theorem State.setNBLK_MSG (n : Nat) : (s.setNBLK n).MSG = s.MSG := rfl
@[simp] theorem State.setNBLK_HEXBUF (n : Nat) : (s.setNBLK n).HEXBUF = s.HEXBUF := rfl
@[simp] theorem State.setNBLK_params (n : Nat) : (s.setNBLK n).params = s.params := rfl
@[simp] theorem State.setNBLK_response (n : Nat) : (s.setNBLK n).response = s.response := rfl
@[simp] theorem State.setNBLK_events (n : Nat) : (s.setNBLK n).events = s.events := rfl
@[simp] theorem State.setNBLK_epoch (n : Nat) : (s.setNBLK n).epoch = s.epoch := rfl
@[simp] theorem State.setNBLK_busy (n : Nat) : (s.setNBLK n).busy = s.busy := rfl
@[simp] theorem State.setNBLK_done (n : Nat) : (s.setNBLK n).done = s.done := rfl
@[simp] theorem State.setNBLK_msgByte (n : Nat) : (s.setNBLK n).msgByte = s.msgByte := rfl
@[simp] theorem State.setNBLK_padByte (n : Nat) : (s.setNBLK n).padByte = s.padByte := rfl
@[simp] theorem State.setNBLK_message (n : Nat) : (s.setNBLK n).message = s.message := rfl

@[simp] theorem State.setPLEN_H (n : Nat) : (s.setPLEN n).H = s.H := rfl
@[simp] theorem State.setPLEN_v (n : Nat) : (s.setPLEN n).v = s.v := rfl
@[simp] theorem State.setPLEN_W (n : Nat) : (s.setPLEN n).W = s.W := rfl
@[simp] theorem State.setPLEN_P (n : Nat) : (s.setPLEN n).P = s.P := rfl
@[simp] theorem State.setPLEN_PLEN (n : Nat) : (s.setPLEN n).PLEN = n % 2 ^ s.params.plenW := rfl
@[simp] theorem State.setPLEN_NBLK (n : Nat) : (s.setPLEN n).NBLK = s.NBLK := rfl
@[simp] theorem State.setPLEN_BLK (n : Nat) : (s.setPLEN n).BLK = s.BLK := rfl
@[simp] theorem State.setPLEN_T (n : Nat) : (s.setPLEN n).T = s.T := rfl
@[simp] theorem State.setPLEN_PHASE (n : Nat) : (s.setPLEN n).PHASE = s.PHASE := rfl
@[simp] theorem State.setPLEN_CMDERR (n : Nat) : (s.setPLEN n).CMDERR = s.CMDERR := rfl
@[simp] theorem State.setPLEN_LENERR (n : Nat) : (s.setPLEN n).LENERR = s.LENERR := rfl
@[simp] theorem State.setPLEN_MSG_LEN (n : Nat) : (s.setPLEN n).MSG_LEN = s.MSG_LEN := rfl
@[simp] theorem State.setPLEN_MSG (n : Nat) : (s.setPLEN n).MSG = s.MSG := rfl
@[simp] theorem State.setPLEN_HEXBUF (n : Nat) : (s.setPLEN n).HEXBUF = s.HEXBUF := rfl
@[simp] theorem State.setPLEN_params (n : Nat) : (s.setPLEN n).params = s.params := rfl
@[simp] theorem State.setPLEN_response (n : Nat) : (s.setPLEN n).response = s.response := rfl
@[simp] theorem State.setPLEN_events (n : Nat) : (s.setPLEN n).events = s.events := rfl
@[simp] theorem State.setPLEN_epoch (n : Nat) : (s.setPLEN n).epoch = s.epoch := rfl
@[simp] theorem State.setPLEN_busy (n : Nat) : (s.setPLEN n).busy = s.busy := rfl
@[simp] theorem State.setPLEN_done (n : Nat) : (s.setPLEN n).done = s.done := rfl
@[simp] theorem State.setPLEN_msgByte (n : Nat) : (s.setPLEN n).msgByte = s.msgByte := rfl
@[simp] theorem State.setPLEN_padByte (n : Nat) : (s.setPLEN n).padByte = s.padByte := rfl
@[simp] theorem State.setPLEN_message (n : Nat) : (s.setPLEN n).message = s.message := rfl

@[simp] theorem State.writePad_H (x : List Byte) : (s.writePad x).H = s.H := rfl
@[simp] theorem State.writePad_v (x : List Byte) : (s.writePad x).v = s.v := rfl
@[simp] theorem State.writePad_W (x : List Byte) : (s.writePad x).W = s.W := rfl
@[simp] theorem State.writePad_P (x : List Byte) : (s.writePad x).P = s.P.writeBytes 0 (x.take s.params.pbufMax) := rfl
@[simp] theorem State.writePad_PLEN (x : List Byte) : (s.writePad x).PLEN = s.PLEN := rfl
@[simp] theorem State.writePad_NBLK (x : List Byte) : (s.writePad x).NBLK = s.NBLK := rfl
@[simp] theorem State.writePad_BLK (x : List Byte) : (s.writePad x).BLK = s.BLK := rfl
@[simp] theorem State.writePad_T (x : List Byte) : (s.writePad x).T = s.T := rfl
@[simp] theorem State.writePad_PHASE (x : List Byte) : (s.writePad x).PHASE = s.PHASE := rfl
@[simp] theorem State.writePad_CMDERR (x : List Byte) : (s.writePad x).CMDERR = s.CMDERR := rfl
@[simp] theorem State.writePad_LENERR (x : List Byte) : (s.writePad x).LENERR = s.LENERR := rfl
@[simp] theorem State.writePad_MSG_LEN (x : List Byte) : (s.writePad x).MSG_LEN = s.MSG_LEN := rfl
@[simp] theorem State.writePad_MSG (x : List Byte) : (s.writePad x).MSG = s.MSG := rfl
@[simp] theorem State.writePad_HEXBUF (x : List Byte) : (s.writePad x).HEXBUF = s.HEXBUF := rfl
@[simp] theorem State.writePad_params (x : List Byte) : (s.writePad x).params = s.params := rfl
@[simp] theorem State.writePad_response (x : List Byte) : (s.writePad x).response = s.response := rfl
@[simp] theorem State.writePad_events (x : List Byte) : (s.writePad x).events = s.events := rfl
@[simp] theorem State.writePad_epoch (x : List Byte) : (s.writePad x).epoch = s.epoch := rfl
@[simp] theorem State.writePad_busy (x : List Byte) : (s.writePad x).busy = s.busy := rfl
@[simp] theorem State.writePad_done (x : List Byte) : (s.writePad x).done = s.done := rfl
@[simp] theorem State.writePad_msgByte (x : List Byte) : (s.writePad x).msgByte = s.msgByte := rfl
@[simp] theorem State.writePad_message (x : List Byte) : (s.writePad x).message = s.message := rfl

@[simp] theorem State.writeMsg_H (j : Nat) (x : Byte) : (s.writeMsg j x).H = s.H := rfl
@[simp] theorem State.writeMsg_v (j : Nat) (x : Byte) : (s.writeMsg j x).v = s.v := rfl
@[simp] theorem State.writeMsg_W (j : Nat) (x : Byte) : (s.writeMsg j x).W = s.W := rfl
@[simp] theorem State.writeMsg_P (j : Nat) (x : Byte) : (s.writeMsg j x).P = s.P := rfl
@[simp] theorem State.writeMsg_PLEN (j : Nat) (x : Byte) : (s.writeMsg j x).PLEN = s.PLEN := rfl
@[simp] theorem State.writeMsg_NBLK (j : Nat) (x : Byte) : (s.writeMsg j x).NBLK = s.NBLK := rfl
@[simp] theorem State.writeMsg_BLK (j : Nat) (x : Byte) : (s.writeMsg j x).BLK = s.BLK := rfl
@[simp] theorem State.writeMsg_T (j : Nat) (x : Byte) : (s.writeMsg j x).T = s.T := rfl
@[simp] theorem State.writeMsg_PHASE (j : Nat) (x : Byte) : (s.writeMsg j x).PHASE = s.PHASE := rfl
@[simp] theorem State.writeMsg_CMDERR (j : Nat) (x : Byte) : (s.writeMsg j x).CMDERR = s.CMDERR := rfl
@[simp] theorem State.writeMsg_LENERR (j : Nat) (x : Byte) : (s.writeMsg j x).LENERR = s.LENERR := rfl
@[simp] theorem State.writeMsg_MSG_LEN (j : Nat) (x : Byte) : (s.writeMsg j x).MSG_LEN = s.MSG_LEN := rfl
@[simp] theorem State.writeMsg_MSG (j : Nat) (x : Byte) : (s.writeMsg j x).MSG = s.MSG.write j x := rfl
@[simp] theorem State.writeMsg_HEXBUF (j : Nat) (x : Byte) : (s.writeMsg j x).HEXBUF = s.HEXBUF := rfl
@[simp] theorem State.writeMsg_params (j : Nat) (x : Byte) : (s.writeMsg j x).params = s.params := rfl
@[simp] theorem State.writeMsg_response (j : Nat) (x : Byte) : (s.writeMsg j x).response = s.response := rfl
@[simp] theorem State.writeMsg_events (j : Nat) (x : Byte) : (s.writeMsg j x).events = s.events := rfl
@[simp] theorem State.writeMsg_epoch (j : Nat) (x : Byte) : (s.writeMsg j x).epoch = s.epoch := rfl
@[simp] theorem State.writeMsg_busy (j : Nat) (x : Byte) : (s.writeMsg j x).busy = s.busy := rfl
@[simp] theorem State.writeMsg_done (j : Nat) (x : Byte) : (s.writeMsg j x).done = s.done := rfl
@[simp] theorem State.writeMsg_padByte (j : Nat) (x : Byte) : (s.writeMsg j x).padByte = s.padByte := rfl

@[simp] theorem State.setMSG_LEN_H (n : BitVec 32) : (s.setMSG_LEN n).H = s.H := rfl
@[simp] theorem State.setMSG_LEN_v (n : BitVec 32) : (s.setMSG_LEN n).v = s.v := rfl
@[simp] theorem State.setMSG_LEN_W (n : BitVec 32) : (s.setMSG_LEN n).W = s.W := rfl
@[simp] theorem State.setMSG_LEN_P (n : BitVec 32) : (s.setMSG_LEN n).P = s.P := rfl
@[simp] theorem State.setMSG_LEN_PLEN (n : BitVec 32) : (s.setMSG_LEN n).PLEN = s.PLEN := rfl
@[simp] theorem State.setMSG_LEN_NBLK (n : BitVec 32) : (s.setMSG_LEN n).NBLK = s.NBLK := rfl
@[simp] theorem State.setMSG_LEN_BLK (n : BitVec 32) : (s.setMSG_LEN n).BLK = s.BLK := rfl
@[simp] theorem State.setMSG_LEN_T (n : BitVec 32) : (s.setMSG_LEN n).T = s.T := rfl
@[simp] theorem State.setMSG_LEN_PHASE (n : BitVec 32) : (s.setMSG_LEN n).PHASE = s.PHASE := rfl
@[simp] theorem State.setMSG_LEN_CMDERR (n : BitVec 32) : (s.setMSG_LEN n).CMDERR = s.CMDERR := rfl
@[simp] theorem State.setMSG_LEN_LENERR (n : BitVec 32) : (s.setMSG_LEN n).LENERR = s.LENERR := rfl
@[simp] theorem State.setMSG_LEN_MSG_LEN (n : BitVec 32) : (s.setMSG_LEN n).MSG_LEN = n := rfl
@[simp] theorem State.setMSG_LEN_MSG (n : BitVec 32) : (s.setMSG_LEN n).MSG = s.MSG := rfl
@[simp] theorem State.setMSG_LEN_HEXBUF (n : BitVec 32) : (s.setMSG_LEN n).HEXBUF = s.HEXBUF := rfl
@[simp] theorem State.setMSG_LEN_params (n : BitVec 32) : (s.setMSG_LEN n).params = s.params := rfl
@[simp] theorem State.setMSG_LEN_response (n : BitVec 32) : (s.setMSG_LEN n).response = s.response := rfl
@[simp] theorem State.setMSG_LEN_events (n : BitVec 32) : (s.setMSG_LEN n).events = s.events := rfl
@[simp] theorem State.setMSG_LEN_epoch (n : BitVec 32) : (s.setMSG_LEN n).epoch = s.epoch := rfl
@[simp] theorem State.setMSG_LEN_busy (n : BitVec 32) : (s.setMSG_LEN n).busy = s.busy := rfl
@[simp] theorem State.setMSG_LEN_done (n : BitVec 32) : (s.setMSG_LEN n).done = s.done := rfl
@[simp] theorem State.setMSG_LEN_msgByte (n : BitVec 32) : (s.setMSG_LEN n).msgByte = s.msgByte := rfl
@[simp] theorem State.setMSG_LEN_padByte (n : BitVec 32) : (s.setMSG_LEN n).padByte = s.padByte := rfl

@[simp] theorem State.setHEXBUF_H (x : Vector Byte 64) : (s.setHEXBUF x).H = s.H := rfl
@[simp] theorem State.setHEXBUF_v (x : Vector Byte 64) : (s.setHEXBUF x).v = s.v := rfl
@[simp] theorem State.setHEXBUF_W (x : Vector Byte 64) : (s.setHEXBUF x).W = s.W := rfl
@[simp] theorem State.setHEXBUF_P (x : Vector Byte 64) : (s.setHEXBUF x).P = s.P := rfl
@[simp] theorem State.setHEXBUF_PLEN (x : Vector Byte 64) : (s.setHEXBUF x).PLEN = s.PLEN := rfl
@[simp] theorem State.setHEXBUF_NBLK (x : Vector Byte 64) : (s.setHEXBUF x).NBLK = s.NBLK := rfl
@[simp] theorem State.setHEXBUF_BLK (x : Vector Byte 64) : (s.setHEXBUF x).BLK = s.BLK := rfl
@[simp] theorem State.setHEXBUF_T (x : Vector Byte 64) : (s.setHEXBUF x).T = s.T := rfl
@[simp] theorem State.setHEXBUF_PHASE (x : Vector Byte 64) : (s.setHEXBUF x).PHASE = s.PHASE := rfl
@[simp] theorem State.setHEXBUF_CMDERR (x : Vector Byte 64) : (s.setHEXBUF x).CMDERR = s.CMDERR := rfl
@[simp] theorem State.setHEXBUF_LENERR (x : Vector Byte 64) : (s.setHEXBUF x).LENERR = s.LENERR := rfl
@[simp] theorem State.setHEXBUF_MSG_LEN (x : Vector Byte 64) : (s.setHEXBUF x).MSG_LEN = s.MSG_LEN := rfl
@[simp] theorem State.setHEXBUF_MSG (x : Vector Byte 64) : (s.setHEXBUF x).MSG = s.MSG := rfl
@[simp] theorem State.setHEXBUF_HEXBUF (x : Vector Byte 64) : (s.setHEXBUF x).HEXBUF = x := rfl
@[simp] theorem State.setHEXBUF_params (x : Vector Byte 64) : (s.setHEXBUF x).params = s.params := rfl
@[simp] theorem State.setHEXBUF_response (x : Vector Byte 64) : (s.setHEXBUF x).response = s.response := rfl
@[simp] theorem State.setHEXBUF_events (x : Vector Byte 64) : (s.setHEXBUF x).events = s.events := rfl
@[simp] theorem State.setHEXBUF_epoch (x : Vector Byte 64) : (s.setHEXBUF x).epoch = s.epoch := rfl
@[simp] theorem State.setHEXBUF_busy (x : Vector Byte 64) : (s.setHEXBUF x).busy = s.busy := rfl
@[simp] theorem State.setHEXBUF_done (x : Vector Byte 64) : (s.setHEXBUF x).done = s.done := rfl
@[simp] theorem State.setHEXBUF_msgByte (x : Vector Byte 64) : (s.setHEXBUF x).msgByte = s.msgByte := rfl
@[simp] theorem State.setHEXBUF_padByte (x : Vector Byte 64) : (s.setHEXBUF x).padByte = s.padByte := rfl
@[simp] theorem State.setHEXBUF_message (x : Vector Byte 64) : (s.setHEXBUF x).message = s.message := rfl

@[simp] theorem State.setEvents_H (es : List Event) : (s.setEvents es).H = s.H := rfl
@[simp] theorem State.setEvents_v (es : List Event) : (s.setEvents es).v = s.v := rfl
@[simp] theorem State.setEvents_W (es : List Event) : (s.setEvents es).W = s.W := rfl
@[simp] theorem State.setEvents_P (es : List Event) : (s.setEvents es).P = s.P := rfl
@[simp] theorem State.setEvents_PLEN (es : List Event) : (s.setEvents es).PLEN = s.PLEN := rfl
@[simp] theorem State.setEvents_NBLK (es : List Event) : (s.setEvents es).NBLK = s.NBLK := rfl
@[simp] theorem State.setEvents_BLK (es : List Event) : (s.setEvents es).BLK = s.BLK := rfl
@[simp] theorem State.setEvents_T (es : List Event) : (s.setEvents es).T = s.T := rfl
@[simp] theorem State.setEvents_PHASE (es : List Event) : (s.setEvents es).PHASE = s.PHASE := rfl
@[simp] theorem State.setEvents_CMDERR (es : List Event) : (s.setEvents es).CMDERR = s.CMDERR := rfl
@[simp] theorem State.setEvents_LENERR (es : List Event) : (s.setEvents es).LENERR = s.LENERR := rfl
@[simp] theorem State.setEvents_MSG_LEN (es : List Event) : (s.setEvents es).MSG_LEN = s.MSG_LEN := rfl
@[simp] theorem State.setEvents_MSG (es : List Event) : (s.setEvents es).MSG = s.MSG := rfl
@[simp] theorem State.setEvents_HEXBUF (es : List Event) : (s.setEvents es).HEXBUF = s.HEXBUF := rfl
@[simp] theorem State.setEvents_params (es : List Event) : (s.setEvents es).params = s.params := rfl
@[simp] theorem State.setEvents_response (es : List Event) : (s.setEvents es).response = s.response := rfl
@[simp] theorem State.setEvents_events (es : List Event) : (s.setEvents es).events = es := rfl
@[simp] theorem State.setEvents_epoch (es : List Event) : (s.setEvents es).epoch = s.epoch := rfl
@[simp] theorem State.setEvents_busy (es : List Event) : (s.setEvents es).busy = s.busy := rfl
@[simp] theorem State.setEvents_done (es : List Event) : (s.setEvents es).done = s.done := rfl
@[simp] theorem State.setEvents_msgByte (es : List Event) : (s.setEvents es).msgByte = s.msgByte := rfl
@[simp] theorem State.setEvents_padByte (es : List Event) : (s.setEvents es).padByte = s.padByte := rfl
@[simp] theorem State.setEvents_message (es : List Event) : (s.setEvents es).message = s.message := rfl

@[simp] theorem State.respondOk_H (d : Word) : (s.respondOk d).H = s.H := rfl
@[simp] theorem State.respondOk_v (d : Word) : (s.respondOk d).v = s.v := rfl
@[simp] theorem State.respondOk_W (d : Word) : (s.respondOk d).W = s.W := rfl
@[simp] theorem State.respondOk_P (d : Word) : (s.respondOk d).P = s.P := rfl
@[simp] theorem State.respondOk_PLEN (d : Word) : (s.respondOk d).PLEN = s.PLEN := rfl
@[simp] theorem State.respondOk_NBLK (d : Word) : (s.respondOk d).NBLK = s.NBLK := rfl
@[simp] theorem State.respondOk_BLK (d : Word) : (s.respondOk d).BLK = s.BLK := rfl
@[simp] theorem State.respondOk_T (d : Word) : (s.respondOk d).T = s.T := rfl
@[simp] theorem State.respondOk_PHASE (d : Word) : (s.respondOk d).PHASE = s.PHASE := rfl
@[simp] theorem State.respondOk_CMDERR (d : Word) : (s.respondOk d).CMDERR = s.CMDERR := rfl
@[simp] theorem State.respondOk_LENERR (d : Word) : (s.respondOk d).LENERR = s.LENERR := rfl
@[simp] theorem State.respondOk_MSG_LEN (d : Word) : (s.respondOk d).MSG_LEN = s.MSG_LEN := rfl
@[simp] theorem State.respondOk_MSG (d : Word) : (s.respondOk d).MSG = s.MSG := rfl
@[simp] theorem State.respondOk_HEXBUF (d : Word) : (s.respondOk d).HEXBUF = s.HEXBUF := rfl
@[simp] theorem State.respondOk_params (d : Word) : (s.respondOk d).params = s.params := rfl
@[simp] theorem State.respondOk_response (d : Word) : (s.respondOk d).response = some ⟨.ok, d⟩ := rfl
@[simp] theorem State.respondOk_events (d : Word) : (s.respondOk d).events = s.events := rfl
@[simp] theorem State.respondOk_epoch (d : Word) : (s.respondOk d).epoch = s.epoch := rfl
@[simp] theorem State.respondOk_busy (d : Word) : (s.respondOk d).busy = s.busy := rfl
@[simp] theorem State.respondOk_done (d : Word) : (s.respondOk d).done = s.done := rfl
@[simp] theorem State.respondOk_msgByte (d : Word) : (s.respondOk d).msgByte = s.msgByte := rfl
@[simp] theorem State.respondOk_padByte (d : Word) : (s.respondOk d).padByte = s.padByte := rfl
@[simp] theorem State.respondOk_message (d : Word) : (s.respondOk d).message = s.message := rfl

@[simp] theorem State.respondBusErr_H : s.respondBusErr.H = s.H := rfl
@[simp] theorem State.respondBusErr_v : s.respondBusErr.v = s.v := rfl
@[simp] theorem State.respondBusErr_W : s.respondBusErr.W = s.W := rfl
@[simp] theorem State.respondBusErr_P : s.respondBusErr.P = s.P := rfl
@[simp] theorem State.respondBusErr_PLEN : s.respondBusErr.PLEN = s.PLEN := rfl
@[simp] theorem State.respondBusErr_NBLK : s.respondBusErr.NBLK = s.NBLK := rfl
@[simp] theorem State.respondBusErr_BLK : s.respondBusErr.BLK = s.BLK := rfl
@[simp] theorem State.respondBusErr_T : s.respondBusErr.T = s.T := rfl
@[simp] theorem State.respondBusErr_PHASE : s.respondBusErr.PHASE = s.PHASE := rfl
@[simp] theorem State.respondBusErr_CMDERR : s.respondBusErr.CMDERR = s.CMDERR := rfl
@[simp] theorem State.respondBusErr_LENERR : s.respondBusErr.LENERR = s.LENERR := rfl
@[simp] theorem State.respondBusErr_MSG_LEN : s.respondBusErr.MSG_LEN = s.MSG_LEN := rfl
@[simp] theorem State.respondBusErr_MSG : s.respondBusErr.MSG = s.MSG := rfl
@[simp] theorem State.respondBusErr_HEXBUF : s.respondBusErr.HEXBUF = s.HEXBUF := rfl
@[simp] theorem State.respondBusErr_params : s.respondBusErr.params = s.params := rfl
@[simp] theorem State.respondBusErr_response : s.respondBusErr.response = some ⟨.busErr, 0⟩ := rfl
@[simp] theorem State.respondBusErr_events : s.respondBusErr.events = s.events := rfl
@[simp] theorem State.respondBusErr_epoch : s.respondBusErr.epoch = s.epoch := rfl
@[simp] theorem State.respondBusErr_busy : s.respondBusErr.busy = s.busy := rfl
@[simp] theorem State.respondBusErr_done : s.respondBusErr.done = s.done := rfl
@[simp] theorem State.respondBusErr_msgByte : s.respondBusErr.msgByte = s.msgByte := rfl
@[simp] theorem State.respondBusErr_padByte : s.respondBusErr.padByte = s.padByte := rfl
@[simp] theorem State.respondBusErr_message : s.respondBusErr.message = s.message := rfl

@[simp] theorem State.setCMDERR_H : s.setCMDERR.H = s.H := rfl
@[simp] theorem State.setCMDERR_v : s.setCMDERR.v = s.v := rfl
@[simp] theorem State.setCMDERR_W : s.setCMDERR.W = s.W := rfl
@[simp] theorem State.setCMDERR_P : s.setCMDERR.P = s.P := rfl
@[simp] theorem State.setCMDERR_PLEN : s.setCMDERR.PLEN = s.PLEN := rfl
@[simp] theorem State.setCMDERR_NBLK : s.setCMDERR.NBLK = s.NBLK := rfl
@[simp] theorem State.setCMDERR_BLK : s.setCMDERR.BLK = s.BLK := rfl
@[simp] theorem State.setCMDERR_T : s.setCMDERR.T = s.T := rfl
@[simp] theorem State.setCMDERR_PHASE : s.setCMDERR.PHASE = s.PHASE := rfl
@[simp] theorem State.setCMDERR_CMDERR : s.setCMDERR.CMDERR = true := rfl
@[simp] theorem State.setCMDERR_LENERR : s.setCMDERR.LENERR = s.LENERR := rfl
@[simp] theorem State.setCMDERR_MSG_LEN : s.setCMDERR.MSG_LEN = s.MSG_LEN := rfl
@[simp] theorem State.setCMDERR_MSG : s.setCMDERR.MSG = s.MSG := rfl
@[simp] theorem State.setCMDERR_HEXBUF : s.setCMDERR.HEXBUF = s.HEXBUF := rfl
@[simp] theorem State.setCMDERR_params : s.setCMDERR.params = s.params := rfl
@[simp] theorem State.setCMDERR_response : s.setCMDERR.response = s.response := rfl
@[simp] theorem State.setCMDERR_events : s.setCMDERR.events = s.events := rfl
@[simp] theorem State.setCMDERR_epoch : s.setCMDERR.epoch = s.epoch := rfl
@[simp] theorem State.setCMDERR_busy : s.setCMDERR.busy = s.busy := rfl
@[simp] theorem State.setCMDERR_done : s.setCMDERR.done = s.done := rfl
@[simp] theorem State.setCMDERR_msgByte : s.setCMDERR.msgByte = s.msgByte := rfl
@[simp] theorem State.setCMDERR_padByte : s.setCMDERR.padByte = s.padByte := rfl
@[simp] theorem State.setCMDERR_message : s.setCMDERR.message = s.message := rfl

@[simp] theorem State.setLENERR_H : s.setLENERR.H = s.H := rfl
@[simp] theorem State.setLENERR_v : s.setLENERR.v = s.v := rfl
@[simp] theorem State.setLENERR_W : s.setLENERR.W = s.W := rfl
@[simp] theorem State.setLENERR_P : s.setLENERR.P = s.P := rfl
@[simp] theorem State.setLENERR_PLEN : s.setLENERR.PLEN = s.PLEN := rfl
@[simp] theorem State.setLENERR_NBLK : s.setLENERR.NBLK = s.NBLK := rfl
@[simp] theorem State.setLENERR_BLK : s.setLENERR.BLK = s.BLK := rfl
@[simp] theorem State.setLENERR_T : s.setLENERR.T = s.T := rfl
@[simp] theorem State.setLENERR_PHASE : s.setLENERR.PHASE = s.PHASE := rfl
@[simp] theorem State.setLENERR_CMDERR : s.setLENERR.CMDERR = s.CMDERR := rfl
@[simp] theorem State.setLENERR_LENERR : s.setLENERR.LENERR = true := rfl
@[simp] theorem State.setLENERR_MSG_LEN : s.setLENERR.MSG_LEN = s.MSG_LEN := rfl
@[simp] theorem State.setLENERR_MSG : s.setLENERR.MSG = s.MSG := rfl
@[simp] theorem State.setLENERR_HEXBUF : s.setLENERR.HEXBUF = s.HEXBUF := rfl
@[simp] theorem State.setLENERR_params : s.setLENERR.params = s.params := rfl
@[simp] theorem State.setLENERR_response : s.setLENERR.response = s.response := rfl
@[simp] theorem State.setLENERR_events : s.setLENERR.events = s.events := rfl
@[simp] theorem State.setLENERR_epoch : s.setLENERR.epoch = s.epoch := rfl
@[simp] theorem State.setLENERR_busy : s.setLENERR.busy = s.busy := rfl
@[simp] theorem State.setLENERR_done : s.setLENERR.done = s.done := rfl
@[simp] theorem State.setLENERR_msgByte : s.setLENERR.msgByte = s.msgByte := rfl
@[simp] theorem State.setLENERR_padByte : s.setLENERR.padByte = s.padByte := rfl
@[simp] theorem State.setLENERR_message : s.setLENERR.message = s.message := rfl

@[simp] theorem State.clearErrors_H : s.clearErrors.H = s.H := rfl
@[simp] theorem State.clearErrors_v : s.clearErrors.v = s.v := rfl
@[simp] theorem State.clearErrors_W : s.clearErrors.W = s.W := rfl
@[simp] theorem State.clearErrors_P : s.clearErrors.P = s.P := rfl
@[simp] theorem State.clearErrors_PLEN : s.clearErrors.PLEN = s.PLEN := rfl
@[simp] theorem State.clearErrors_NBLK : s.clearErrors.NBLK = s.NBLK := rfl
@[simp] theorem State.clearErrors_BLK : s.clearErrors.BLK = s.BLK := rfl
@[simp] theorem State.clearErrors_T : s.clearErrors.T = s.T := rfl
@[simp] theorem State.clearErrors_PHASE : s.clearErrors.PHASE = s.PHASE := rfl
@[simp] theorem State.clearErrors_CMDERR : s.clearErrors.CMDERR = false := rfl
@[simp] theorem State.clearErrors_LENERR : s.clearErrors.LENERR = false := rfl
@[simp] theorem State.clearErrors_MSG_LEN : s.clearErrors.MSG_LEN = s.MSG_LEN := rfl
@[simp] theorem State.clearErrors_MSG : s.clearErrors.MSG = s.MSG := rfl
@[simp] theorem State.clearErrors_HEXBUF : s.clearErrors.HEXBUF = s.HEXBUF := rfl
@[simp] theorem State.clearErrors_params : s.clearErrors.params = s.params := rfl
@[simp] theorem State.clearErrors_response : s.clearErrors.response = s.response := rfl
@[simp] theorem State.clearErrors_events : s.clearErrors.events = s.events := rfl
@[simp] theorem State.clearErrors_epoch : s.clearErrors.epoch = s.epoch := rfl
@[simp] theorem State.clearErrors_busy : s.clearErrors.busy = s.busy := rfl
@[simp] theorem State.clearErrors_done : s.clearErrors.done = s.done := rfl
@[simp] theorem State.clearErrors_msgByte : s.clearErrors.msgByte = s.msgByte := rfl
@[simp] theorem State.clearErrors_padByte : s.clearErrors.padByte = s.padByte := rfl
@[simp] theorem State.clearErrors_message : s.clearErrors.message = s.message := rfl

/-! What a reset leaves (R260). -/

@[simp] theorem State.takeReset_NBLK : s.takeReset.NBLK = 0 := rfl
@[simp] theorem State.takeReset_BLK : s.takeReset.BLK = 0 := rfl
@[simp] theorem State.takeReset_T : s.takeReset.T = 0 := rfl
@[simp] theorem State.takeReset_PHASE : s.takeReset.PHASE = PHASE_IDLE := rfl
@[simp] theorem State.takeReset_CMDERR : s.takeReset.CMDERR = false := rfl
@[simp] theorem State.takeReset_LENERR : s.takeReset.LENERR = false := rfl
@[simp] theorem State.takeReset_MSG_LEN : s.takeReset.MSG_LEN = 0 := rfl
@[simp] theorem State.takeReset_MSG : s.takeReset.MSG = [] := rfl
@[simp] theorem State.takeReset_P : s.takeReset.P = [] := rfl
@[simp] theorem State.takeReset_params : s.takeReset.params = s.params := rfl
@[simp] theorem State.takeReset_response : s.takeReset.response = none := rfl
@[simp] theorem State.takeReset_events : s.takeReset.events = s.events := rfl
@[simp] theorem State.takeReset_epoch : s.takeReset.epoch = s.epoch + 1 := rfl
@[simp] theorem State.takeReset_busy : s.takeReset.busy = false := rfl
@[simp] theorem State.takeReset_done : s.takeReset.done = false := rfl

end Sys2Proof.Machine
end

