-- ==== Sys2Proof/Laws/Ops.lean ====
section
/-! SUPPORT. One lemma per shared operation that says everything it can do: the address map, the commands, the
micro-operations' sums, and taking the next event. -/

namespace Sys2Proof.Machine

/-! ## The address map (R61) -/

theorem offsetOf_base (p : Params) : offsetOf p p.base = 0 := by simp [offsetOf]

theorem offsetOf_hostAddr (p : Params) {off : Nat} (h : off < 2 ^ 32) : offsetOf p (hostAddr p off) = off := by
  unfold offsetOf hostAddr
  rw [BitVec.add_comm, BitVec.add_sub_cancel]
  simpa using Nat.mod_eq_of_lt h

@[simp] theorem hostAddr_zero (p : Params) : hostAddr p 0 = p.base := by simp [hostAddr]

theorem locate_ctrl {p : Params} {addr : BitVec 32} (h : offsetOf p addr = 0) : locate p addr = .ctrl := by
  simp [locate, h]

theorem locate_status {p : Params} {addr : BitVec 32} (h : offsetOf p addr = 4) : locate p addr = .status := by
  simp [locate, h]

theorem locate_msgLen {p : Params} {addr : BitVec 32} (h : offsetOf p addr = 8) : locate p addr = .msgLen := by
  simp [locate, h]

theorem locate_digest {p : Params} {addr : BitVec 32} (i : Fin 8) (h : offsetOf p addr = 0x10 + 4 * i) :
    locate p addr = .digest i := by
  have hi := i.isLt
  unfold locate
  simp only [h]
  rw [if_neg (by omega), if_neg (by omega), if_neg (by omega), dif_pos (by omega)]
  congr
  omega

theorem locate_hex {p : Params} {addr : BitVec 32} (k : Fin 64) (h : offsetOf p addr = 0x40 + k) :
    locate p addr = .hex k := by
  have hk := k.isLt
  unfold locate
  simp only [h]
  rw [if_neg (by omega), if_neg (by omega), if_neg (by omega), dif_neg (by omega), dif_pos (by omega)]
  congr
  omega

theorem locate_msg {p : Params} {addr : BitVec 32} {j : Nat} (hj : j < p.msgMaxBytes)
    (h : offsetOf p addr = 0x10000 + j) : locate p addr = .msg j := by
  unfold locate
  simp only [h]
  rw [if_neg (by omega), if_neg (by omega), if_neg (by omega), dif_neg (by omega), dif_neg (by omega),
    if_pos (by omega), Nat.add_sub_cancel_left]

/-- What each location says of the address: the inversion of the map. -/
theorem locate_spec (p : Params) (addr : BitVec 32) :
    match locate p addr with
    | .ctrl => offsetOf p addr = 0
    | .status => offsetOf p addr = 4
    | .msgLen => offsetOf p addr = 8
    | .digest i => offsetOf p addr = 0x10 + 4 * i
    | .hex k => offsetOf p addr = 0x40 + k
    | .msg j => offsetOf p addr = 0x10000 + j ∧ j < p.msgMaxBytes
    | .unmapped =>
      ¬(offsetOf p addr % 4 = 0 ∧ (offsetOf p addr ∈ [0x0000, 0x0004, 0x0008] ∨
        0x0010 ≤ offsetOf p addr ∧ offsetOf p addr < 0x0030)) ∧
      ¬(0x0040 ≤ offsetOf p addr ∧ offsetOf p addr < 0x0080 ∨
        0x00010000 ≤ offsetOf p addr ∧ offsetOf p addr < 0x00010000 + p.msgMaxBytes) := by
  by_cases h0 : offsetOf p addr = 0
  · rw [locate_ctrl h0]; exact h0
  by_cases h4 : offsetOf p addr = 4
  · rw [locate_status h4]; exact h4
  by_cases h8 : offsetOf p addr = 8
  · rw [locate_msgLen h8]; exact h8
  by_cases hd : 0x10 ≤ offsetOf p addr ∧ offsetOf p addr < 0x30 ∧ offsetOf p addr % 4 = 0
  · have e : offsetOf p addr = 0x10 + 4 * (⟨(offsetOf p addr - 0x10) / 4, by omega⟩ : Fin 8).val := by
      simp only []; omega
    rw [locate_digest _ e]; exact e
  by_cases hx : 0x40 ≤ offsetOf p addr ∧ offsetOf p addr < 0x80
  · have e : offsetOf p addr = 0x40 + (⟨offsetOf p addr - 0x40, by omega⟩ : Fin 64).val := by
      simp only []; omega
    rw [locate_hex _ e]; exact e
  by_cases hm : 0x10000 ≤ offsetOf p addr ∧ offsetOf p addr < 0x10000 + p.msgMaxBytes
  · have e : offsetOf p addr = 0x10000 + (offsetOf p addr - 0x10000) := by omega
    rw [locate_msg (by omega) e]; exact ⟨e, by omega⟩
  · have e : locate p addr = .unmapped := by
      unfold locate
      simp only []
      rw [if_neg h0, if_neg h4, if_neg h8, dif_neg hd, dif_neg hx, if_neg hm]
    rw [e]
    refine ⟨fun ⟨aligned, h⟩ => ?_, fun h => ?_⟩
    · rcases h with h | h
      · simp only [List.mem_cons, List.not_mem_nil, or_false] at h; omega
      · exact hd ⟨h.1, h.2, aligned⟩
    · exact h.elim hx hm

/-- CTRL is at `BASE` and nowhere else. -/
theorem locate_eq_ctrl_iff (p : Params) (addr : BitVec 32) : locate p addr = .ctrl ↔ addr = p.base := by
  constructor
  · intro h
    have := locate_spec p addr
    rw [h] at this
    have zero : addr - p.base = 0 := BitVec.eq_of_toNat_eq (by simpa [offsetOf] using this)
    have := congrArg (· + p.base) zero
    simpa [BitVec.sub_add_cancel] using this
  · rintro rfl
    exact locate_ctrl (offsetOf_base p)

/-- MSG_LEN is at its offset and nowhere else. -/
theorem locate_eq_msgLen_iff (p : Params) (addr : BitVec 32) : locate p addr = .msgLen ↔ addr = hostAddr p 0x0008 := by
  constructor
  · intro h
    have := locate_spec p addr
    rw [h] at this
    have eight : addr - p.base = 8 := BitVec.eq_of_toNat_eq (by simpa [offsetOf] using this)
    have := congrArg (· + p.base) eight
    rw [hostAddr, BitVec.add_comm p.base]
    simpa [BitVec.sub_add_cancel] using this
  · rintro rfl
    exact locate_msgLen (offsetOf_hostAddr p (by omega))

@[simp] theorem locate_base (p : Params) : locate p p.base = .ctrl := (locate_eq_ctrl_iff p _).mpr rfl

/-! ## Commands (R213-R217) -/

/-- The words of the three legal commands, and no others (R93). -/
theorem decodeCommand_spec (w : BitVec 32) :
    match decodeCommand w with
    | .nop => w = 0
    | .start => w = 1
    | .abort => w = 2
    | .illegal => w.toNat / 16 ≠ 0 ∨ 3 ≤ w.toNat % 16 := by
  obtain ⟨hi, lo⟩ := commandFields w
  have isLt := w.isLt
  have e (n : Nat) (h : n < 2 ^ 4) : w.extractLsb' 0 4 = BitVec.ofNat 4 n ↔ w.toNat % 16 = n := by
    rw [← BitVec.toNat_inj, lo, BitVec.toNat_ofNat, Nat.mod_eq_of_lt h]
  have e0' : w.extractLsb' 0 4 = 0 ↔ w.toNat % 16 = 0 := e 0 (by omega)
  have e1 : w.extractLsb' 0 4 = 1 ↔ w.toNat % 16 = 1 := e 1 (by omega)
  have e2 : w.extractLsb' 0 4 = 2 ↔ w.toNat % 16 = 2 := e 2 (by omega)
  have e0 : w.extractLsb' 4 28 = 0 ↔ w.toNat / 16 = 0 := by
    rw [← BitVec.toNat_inj, hi]; rfl
  have eq_of (n : Nat) (h : w.toNat = n) : w = BitVec.ofNat 32 n := by
    rw [← h, BitVec.ofNat_toNat, BitVec.setWidth_eq]
  unfold decodeCommand
  by_cases h : w.toNat / 16 = 0
  · rw [if_neg (not_not.mpr (e0.mpr h))]
    by_cases h0 : w.toNat % 16 = 0
    · rw [if_pos (e0'.mpr h0)]; exact eq_of 0 (by omega)
    · rw [if_neg (mt e0'.mp h0)]
      by_cases h1 : w.toNat % 16 = 1
      · rw [if_pos (e1.mpr h1)]; exact eq_of 1 (by omega)
      · rw [if_neg (mt e1.mp h1)]
        by_cases h2 : w.toNat % 16 = 2
        · rw [if_pos (e2.mpr h2)]; exact eq_of 2 (by omega)
        · rw [if_neg (mt e2.mp h2)]; exact .inr (by omega)
  · rw [if_pos (mt e0.mp h)]; exact .inl h

@[simp] theorem decodeCommand_zero : decodeCommand 0#32 = .nop := by decide
@[simp] theorem decodeCommand_one : decodeCommand 1#32 = .start := by decide
@[simp] theorem decodeCommand_two : decodeCommand 2#32 = .abort := by decide

/-- Everything START can do (R215). -/
theorem commandStart_cases (s : State) :
    (s.busy = true ∧ commandStart s = s.setCMDERR) ∨
    (s.busy = false ∧ s.params.msgMaxBytes < s.MSG_LEN.toNat ∧ commandStart s = s.setLENERR) ∨
    (s.busy = false ∧ s.MSG_LEN.toNat ≤ s.params.msgMaxBytes ∧
      commandStart s = s.clearErrors.goto PHASE_INIT 0) := by
  unfold commandStart
  cases hb : s.busy
  · by_cases hl : s.params.msgMaxBytes < s.MSG_LEN.toNat
    · simp [hl]
    · simp [hl]; omega
  · simp

/-- Everything a CTRL write can do: one of five updates of the flags and the position. -/
theorem performCommand_cases (s : State) (w : BitVec 32) :
    performCommand s w = s ∨ performCommand s w = s.setCMDERR ∨
    (s.busy = false ∧ s.params.msgMaxBytes < s.MSG_LEN.toNat ∧ w = 1 ∧ performCommand s w = s.setLENERR) ∨
    (s.busy = false ∧ s.MSG_LEN.toNat ≤ s.params.msgMaxBytes ∧ w = 1 ∧
      performCommand s w = s.clearErrors.goto PHASE_INIT 0) ∨
    (w = 2 ∧ performCommand s w = s.clearErrors.goto PHASE_IDLE 0) := by
  have spec := decodeCommand_spec w
  unfold performCommand
  cases h : decodeCommand w <;> rw [h] at spec
  · exact .inl rfl
  · rcases commandStart_cases s with ⟨_, e⟩ | ⟨b, l, e⟩ | ⟨b, l, e⟩
    · exact .inr (.inl e)
    · exact .inr (.inr (.inl ⟨b, l, spec, e⟩))
    · exact .inr (.inr (.inr (.inl ⟨b, l, spec, e⟩)))
  · exact .inr (.inr (.inr (.inr ⟨spec, rfl⟩)))
  · exact .inr (.inl rfl)

/-- What no CTRL write changes. -/
theorem performCommand_frame (s : State) (w : BitVec 32) :
    let t := performCommand s w
    t.H = s.H ∧ t.v = s.v ∧ t.W = s.W ∧ t.P = s.P ∧ t.PLEN = s.PLEN ∧ t.NBLK = s.NBLK ∧ t.BLK = s.BLK ∧
    t.MSG_LEN = s.MSG_LEN ∧ t.MSG = s.MSG ∧ t.HEXBUF = s.HEXBUF ∧ t.params = s.params ∧ t.response = s.response ∧
    t.events = s.events ∧ t.epoch = s.epoch := by
  rcases performCommand_cases s w with e | e | ⟨_, _, _, e⟩ | ⟨_, _, _, e⟩ | ⟨_, e⟩ <;> simp [e]

/-! ## Transactions -/

/-- Everything a transaction can do: a response, and one of: nothing else, a command, a message byte while not busy, a
new length while not busy. -/
theorem exec_bus_cases (record : BitVec 66) (s : State) : ∃ (s' : State) (r : Response),
    exec (decodeBus record) s = .next { s' with response := some r } ∧
    (s' = s ∨ (∃ w, decodeBus record = .wr32 s.params.base w ∧ s' = performCommand s w) ∨
      (∃ j x, s.busy = false ∧ j < s.params.msgMaxBytes ∧ s' = s.writeMsg j x) ∨
      (∃ n, s.busy = false ∧ s' = s.setMSG_LEN n)) := by
  obtain ⟨k, -, hk⟩ := decodeBus_cases record
  generalize recordAddr record = addr at hk
  generalize recordWdata record = d at hk
  have spec := locate_spec s.params addr
  rw [hk]
  cases k <;> simp only [exec]
  · unfold execRd8
    cases locate s.params addr <;> exact ⟨s, _, rfl, .inl rfl⟩
  · unfold execWr8
    cases hl : locate s.params addr <;> rw [hl] at spec
    case msg j =>
      cases hb : s.busy
      · exact ⟨s.writeMsg j (byteLane d), _, rfl, .inr (.inr (.inl ⟨j, _, rfl, spec.2, rfl⟩))⟩
      · exact ⟨s, _, rfl, .inl rfl⟩
    all_goals exact ⟨s, _, rfl, .inl rfl⟩
  · unfold execRd32
    cases locate s.params addr <;> exact ⟨s, _, rfl, .inl rfl⟩
  · unfold execWr32
    cases hl : locate s.params addr
    case ctrl =>
      exact ⟨performCommand s d, _, rfl, .inr (.inl ⟨d, by rw [(locate_eq_ctrl_iff _ _).mp hl], rfl⟩)⟩
    case msgLen =>
      cases hb : s.busy
      · exact ⟨s.setMSG_LEN d, _, rfl, .inr (.inr (.inr ⟨d, rfl, rfl⟩))⟩
      · exact ⟨s, _, rfl, .inl rfl⟩
    all_goals exact ⟨s, _, rfl, .inl rfl⟩

/-! ## The engine's turn -/

/-- Everything the engine's turn can do, by the phase. -/
theorem exec_uop_cases (s : State) :
    (s.PHASE = PHASE_IDLE ∧ exec (decodeUop s.PHASE) s = .next s) ∨
    (s.PHASE = PHASE_INIT ∧ exec (decodeUop s.PHASE) s = execInit s) ∨
    (s.PHASE = PHASE_PAD ∧ exec (decodeUop s.PHASE) s = execPad s) ∨
    (s.PHASE = PHASE_LOAD ∧ exec (decodeUop s.PHASE) s = execLoad s) ∨
    (s.PHASE = PHASE_EXPAND ∧ exec (decodeUop s.PHASE) s = execExpand s) ∨
    (s.PHASE = PHASE_WINIT ∧ exec (decodeUop s.PHASE) s = execWinit s) ∨
    (s.PHASE = PHASE_ROUND ∧ exec (decodeUop s.PHASE) s = execRound s) ∨
    (s.PHASE = PHASE_FOLD ∧ exec (decodeUop s.PHASE) s = execFold s) ∨
    (s.PHASE = PHASE_FINALIZE ∧ exec (decodeUop s.PHASE) s = execFinalize s) ∨
    (s.PHASE = PHASE_DONE ∧ exec (decodeUop s.PHASE) s = .next s) ∨
    (0xA ≤ s.PHASE.toNat ∧ exec (decodeUop s.PHASE) s = .fault (.stuckReservedPhase s.PHASE)) := by
  have all : ∀ p : BitVec 4, p = PHASE_IDLE ∨ p = PHASE_INIT ∨ p = PHASE_PAD ∨ p = PHASE_LOAD ∨ p = PHASE_EXPAND ∨
      p = PHASE_WINIT ∨ p = PHASE_ROUND ∨ p = PHASE_FOLD ∨ p = PHASE_FINALIZE ∨ p = PHASE_DONE ∨
      (0xA ≤ p.toNat ∧ decodeUop p = .reservedPhase p) := by decide
  rcases all s.PHASE with h | h | h | h | h | h | h | h | h | h | ⟨h, h'⟩
  · exact .inl ⟨h, by rw [h]; rfl⟩
  · exact .inr (.inl ⟨h, by rw [h]; rfl⟩)
  · exact .inr (.inr (.inl ⟨h, by rw [h]; rfl⟩))
  · exact .inr (.inr (.inr (.inl ⟨h, by rw [h]; rfl⟩)))
  · exact .inr (.inr (.inr (.inr (.inl ⟨h, by rw [h]; rfl⟩))))
  · exact .inr (.inr (.inr (.inr (.inr (.inl ⟨h, by rw [h]; rfl⟩)))))
  · exact .inr (.inr (.inr (.inr (.inr (.inr (.inl ⟨h, by rw [h]; rfl⟩))))))
  · exact .inr (.inr (.inr (.inr (.inr (.inr (.inr (.inl ⟨h, by rw [h]; rfl⟩)))))))
  · exact .inr (.inr (.inr (.inr (.inr (.inr (.inr (.inr (.inl ⟨h, by rw [h]; rfl⟩))))))))
  · exact .inr (.inr (.inr (.inr (.inr (.inr (.inr (.inr (.inr (.inl ⟨h, by rw [h]; rfl⟩)))))))))
  · exact .inr (.inr (.inr (.inr (.inr (.inr (.inr (.inr (.inr (.inr ⟨h, by rw [h']; rfl⟩)))))))))

/-- Everything taking the next event can do. -/
theorem fetch_cases (s : State) :
    (s.events = [] ∧ fetch s = (.operation (.uop s.PHASE), s)) ∨
    (∃ es, s.events = .engine :: es ∧ fetch s = (.operation (.uop s.PHASE), s.setEvents es)) ∨
    (∃ r es, s.events = .host r :: es ∧ fetch s = (.operation (.bus r), s.setEvents es)) ∨
    (∃ es, s.events = .reset :: es ∧ fetch s = (.reset, s.setEvents es)) := by
  unfold fetch
  cases h : s.events with
  | nil => exact .inl ⟨rfl, rfl⟩
  | cons e es =>
    cases e with
    | engine => exact .inr (.inl ⟨es, rfl, rfl⟩)
    | host r => exact .inr (.inr (.inl ⟨r, es, rfl, rfl⟩))
    | reset => exact .inr (.inr (.inr ⟨es, rfl, rfl⟩))

/-! ## Register widths and the padding -/

theorem lt_two_pow_bitsFor (n : Nat) : n < 2 ^ bitsFor n := Nat.lt_log2_self

/-- A block count the parameters allow fits BLK and NBLK. -/
theorem mod_blkW {p : Params} {n : Nat} (h : n ≤ p.nblkMax) : n % 2 ^ p.blkW = n :=
  Nat.mod_eq_of_lt (lt_of_le_of_lt h (lt_two_pow_bitsFor _))

/-- A padded length the parameters allow fits PLEN. -/
theorem mod_plenW {p : Params} {n : Nat} (h : n ≤ p.pbufMax) : n % 2 ^ p.plenW = n :=
  Nat.mod_eq_of_lt (lt_of_le_of_lt h (lt_two_pow_bitsFor _))

/-- The zero count in natural numbers: it is below 64 and fills the block up to the length field. -/
theorem padZeros_spec (len : Nat) : padZeros len < 64 ∧ (len + 9 + padZeros len) % 64 = 0 := by
  unfold padZeros; omega

@[simp] theorem length_lengthField (len : Nat) : (lengthField len).length = 8 := rfl

@[simp] theorem length_padMessage (m : List Byte) : (padMessage m).length = m.length + 9 + padZeros m.length := by
  simp [padMessage]; omega

/-- The padded length is a whole number of blocks. -/
theorem length_padMessage_blocks (m : List Byte) : (padMessage m).length = 64 * blocksFor m.length := by
  have := padZeros_spec m.length
  rw [length_padMessage]; unfold blocksFor; omega

@[simp] theorem length_message (s : State) : s.message.length = s.MSG_LEN.toNat := by simp [State.message]

/-- A message that START accepts is padded inside the padded buffer. -/
theorem padded_fits {s : State} (h : s.MSG_LEN.toNat ≤ s.params.msgMaxBytes) :
    blocksFor s.MSG_LEN.toNat ≤ s.params.nblkMax ∧ (padMessage s.message).length ≤ s.params.pbufMax := by
  have : blocksFor s.MSG_LEN.toNat ≤ s.params.nblkMax := by unfold blocksFor Params.nblkMax; omega
  refine ⟨this, ?_⟩
  rw [length_padMessage_blocks, length_message]
  exact Nat.mul_le_mul_left 64 this

end Sys2Proof.Machine
end

