-- ==== Sys2Proof/Laws/PerInstr.lean ====
section
/-! SUPPORT. Statements made of every instruction, one lemma per constructor. -/

namespace Sys2Proof.Laws.EncodedFormat

/-- What the encoding's format says (30_encoding.md R90, R92, R95): the encoding of a well-formed instruction fits its
format, and only the bits of its format are set. -/
def Statement (i : Instr) : Prop :=
  i.wf = true → (encode i).bits < 2 ^ (encode i).width ∧
    encodedOfBits (encode i).width (encode i).bits = .ok (encode i)

theorem ofBus (record : BitVec 66) :
    (Encoded.bus record).bits < 2 ^ (Encoded.bus record).width ∧
      encodedOfBits (Encoded.bus record).width (Encoded.bus record).bits = .ok (.bus record) :=
  ⟨record.isLt, by simp [encodedOfBits, Encoded.width, Encoded.bits, record.isLt]⟩

theorem ofCmd (word : BitVec 32) :
    (Encoded.cmd word).bits < 2 ^ (Encoded.cmd word).width ∧
      encodedOfBits (Encoded.cmd word).width (Encoded.cmd word).bits = .ok (.cmd word) :=
  ⟨word.isLt, by simp [encodedOfBits, Encoded.width, Encoded.bits, word.isLt]⟩

theorem ofUop (phase : BitVec 4) :
    (Encoded.uop phase).bits < 2 ^ (Encoded.uop phase).width ∧
      encodedOfBits (Encoded.uop phase).width (Encoded.uop phase).bits = .ok (.uop phase) :=
  ⟨phase.isLt, by simp [encodedOfBits, Encoded.width, Encoded.bits, phase.isLt]⟩

theorem rd8 (addr wdata : BitVec 32) : Statement (.rd8 addr wdata) := fun _ => ofBus _
theorem wr8 (addr wdata : BitVec 32) : Statement (.wr8 addr wdata) := fun _ => ofBus _
theorem rd32 (addr wdata : BitVec 32) : Statement (.rd32 addr wdata) := fun _ => ofBus _
theorem wr32 (addr wdata : BitVec 32) : Statement (.wr32 addr wdata) := fun _ => ofBus _
theorem nop : Statement .nop := fun _ => ofCmd _
theorem start : Statement .start := fun _ => ofCmd _
theorem abort : Statement .abort := fun _ => ofCmd _
theorem illegal (word : BitVec 32) : Statement (.illegal word) := fun _ => ofCmd _
theorem idle : Statement .idle := fun _ => ofUop _
theorem init : Statement .init := fun _ => ofUop _
theorem pad : Statement .pad := fun _ => ofUop _
theorem load : Statement .load := fun _ => ofUop _
theorem expand : Statement .expand := fun _ => ofUop _
theorem winit : Statement .winit := fun _ => ofUop _
theorem round : Statement .round := fun _ => ofUop _
theorem fold : Statement .fold := fun _ => ofUop _
theorem finalize : Statement .finalize := fun _ => ofUop _
theorem done : Statement .done := fun _ => ofUop _
theorem reservedPhase (code : BitVec 4) : Statement (.reservedPhase code) := fun _ => ofUop _

end Sys2Proof.Laws.EncodedFormat
end

