-- ==== Sys2Proof/Laws/Step.lean ====
section
/-! SUPPORT. The inversion of the step, what a micro-operation and a transaction leave alone, and the run's own
equations. -/

namespace Sys2Proof.Machine

/-- Everything a step that answers a next state can be: the engine's turn, a transaction or a reset. -/
theorem step_cases {s t : State} (h : step s = .next t) :
    (∃ es, (s.events = [] ∧ es = [] ∨ s.events = .engine :: es) ∧ exec (decodeUop s.PHASE) (s.setEvents es) = .next t) ∨
    (∃ record es, s.events = .host record :: es ∧ exec (decodeBus record) (s.setEvents es) = .next t) ∨
    (∃ es, s.events = .reset :: es ∧ t = (s.setEvents es).takeReset) := by
  unfold step at h
  rcases fetch_cases s with ⟨e, f⟩ | ⟨es, e, f⟩ | ⟨r, es, e, f⟩ | ⟨es, e, f⟩ <;> rw [f] at h <;>
    simp only [decode] at h
  · have same : s.setEvents [] = s := by rw [← e]; rfl
    exact .inl ⟨[], .inl ⟨e, rfl⟩, by rw [same]; exact h⟩
  · exact .inl ⟨es, .inr e, h⟩
  · exact .inr (.inl ⟨r, es, e, h⟩)
  · cases h; exact .inr (.inr ⟨es, e, rfl⟩)

/-- What no micro-operation changes. -/
theorem exec_uop_frame {s t : State} (h : exec (decodeUop s.PHASE) s = .next t) :
    t.CMDERR = s.CMDERR ∧ t.LENERR = s.LENERR ∧ t.MSG_LEN = s.MSG_LEN ∧ t.MSG = s.MSG ∧ t.params = s.params ∧
    t.response = s.response ∧ t.events = s.events ∧ t.epoch = s.epoch := by
  rcases exec_uop_cases s with ⟨_, e⟩ | ⟨_, e⟩ | ⟨_, e⟩ | ⟨_, e⟩ | ⟨_, e⟩ | ⟨_, e⟩ | ⟨_, e⟩ | ⟨_, e⟩ | ⟨_, e⟩ |
    ⟨_, e⟩ | ⟨_, e⟩ <;> rw [e] at h <;>
    (try simp only [execInit, execPad, execLoad, execExpand, execWinit, execRound, execFold, execFinalize] at h) <;>
    (try split at h) <;> cases h <;> simp

/-- What no transaction changes. -/
theorem exec_bus_frame {record : BitVec 66} {s t : State} (h : exec (decodeBus record) s = .next t) :
    t.H = s.H ∧ t.v = s.v ∧ t.W = s.W ∧ t.P = s.P ∧ t.PLEN = s.PLEN ∧ t.NBLK = s.NBLK ∧ t.BLK = s.BLK ∧
    t.HEXBUF = s.HEXBUF ∧ t.params = s.params ∧ t.events = s.events ∧ t.epoch = s.epoch := by
  obtain ⟨s', r, e, c⟩ := exec_bus_cases record s
  rw [e] at h
  cases h
  rcases c with rfl | ⟨w, -, rfl⟩ | ⟨j, x, -, -, rfl⟩ | ⟨n, -, rfl⟩
  · simp
  · have := performCommand_frame s w; simp_all
  · simp
  · simp

/-- The engine's turn in a reserved phase. -/
theorem exec_reserved (s : State) (h : 0xA ≤ s.PHASE.toNat) :
    exec (decodeUop s.PHASE) s = .fault (.stuckReservedPhase s.PHASE) := by
  rcases exec_uop_cases s with ⟨p, _⟩ | ⟨p, _⟩ | ⟨p, _⟩ | ⟨p, _⟩ | ⟨p, _⟩ | ⟨p, _⟩ | ⟨p, _⟩ | ⟨p, _⟩ | ⟨p, _⟩ |
    ⟨p, _⟩ | ⟨_, e⟩ <;> first | exact e | (rw [p] at h; exact absurd h (by decide))

/-- A micro-operation does not look at the events to come. -/
theorem exec_uop_setEvents (s : State) (es : List Event) :
    exec (decodeUop s.PHASE) (s.setEvents es) =
      match exec (decodeUop s.PHASE) s with
      | .next t => .next (t.setEvents es)
      | .fault why => .fault why
      | .refused why => .refused why := by
  rcases exec_uop_cases s with ⟨p, e⟩ | ⟨p, e⟩ | ⟨p, e⟩ | ⟨p, e⟩ | ⟨p, e⟩ | ⟨p, e⟩ | ⟨p, e⟩ | ⟨p, e⟩ | ⟨p, e⟩ |
    ⟨p, e⟩ | ⟨p, e⟩ <;> rw [e] <;> try (rw [p]; rfl)
  · rw [p]; change execLoad _ = _
    unfold execLoad; simp only [State.setEvents_T]; by_cases c : s.T.toNat < 15 <;> simp only [c] <;> rfl
  · rw [p]; change execExpand _ = _
    unfold execExpand; simp only [State.setEvents_T]; by_cases c : s.T.toNat < 63 <;> simp only [c] <;> rfl
  · rw [p]; change execRound _ = _
    unfold execRound; simp only [State.setEvents_T]; by_cases c : s.T.toNat < 63 <;> simp only [c] <;> rfl
  · rw [p]; change execFold _ = _
    unfold execFold; by_cases c : (s.BLK + 1) % 2 ^ s.params.blkW < s.NBLK <;> simp [c] <;> rfl
  · exact exec_reserved (s.setEvents es) p

/-- The sequencer's invariant does not speak of the events to come. -/
theorem SequencerInv.setEvents {s : State} (h : SequencerInv s) (es : List Event) : SequencerInv (s.setEvents es) :=
  ⟨h.1, h.2, h.3, h.4, h.5, h.6, h.7, h.8, h.9, h.10, h.11⟩

/-- No step runs nothing. -/
@[simp] theorem run_zero (s : State) : run 0 s = .next s := rfl

/-- A run from its first step. -/
theorem run_succ {s t : State} (h : step s = .next t) (k : Nat) : run (k + 1) s = run k t := by
  have e := Host.Core.run.eq_def Sys2Proof.core (k + 1) s
  simp only [show Sys2Proof.core.step s = .next t from h] at e
  exact e

/-- A run that answers a next state takes a first step. -/
theorem run_succ_inv {s u : State} {k : Nat} (h : run (k + 1) s = .next u) : ∃ t, step s = .next t ∧ run k t = .next u := by
  have e := (Host.Core.run.eq_def Sys2Proof.core (k + 1) s).symm.trans h
  cases hs : step s with
  | next t => simp only [show Sys2Proof.core.step s = .next t from hs] at e; exact ⟨t, rfl, e⟩
  | fault why => simp only [show Sys2Proof.core.step s = .fault why from hs] at e; cases e
  | refused why => simp only [show Sys2Proof.core.step s = .refused why from hs] at e; cases e

/-- A run in two parts. -/
theorem run_add {s t : State} {j : Nat} (h : run j s = .next t) (k : Nat) : run (j + k) s = run k t := by
  induction j generalizing s with
  | zero => cases h; rw [Nat.zero_add]
  | succ j ih =>
    obtain ⟨s', e, h⟩ := run_succ_inv h
    rw [Nat.add_right_comm, run_succ e]
    exact ih h

end Sys2Proof.Machine
end

