-- ==== Sys2Proof/Tests/Slice0.lean ====
section
/-! SUPPORT. The model's own tests. Expected values are those of spec/95_test_vectors.md (V<n>, P<n>, S<n>) or read off
the rule named. After them, for every obligation with hypotheses, the states and operands that meet them. -/

namespace Sys2Proof.Tests

open Sys2Proof Sys2Proof.Machine

/-! ## Well-formed terms and decoding -/

theorem test_wf_refuses_legal_word_as_illegal :
    (Instr.illegal 0).wf = false ∧ (Instr.illegal 1).wf = false ∧ (Instr.illegal 2).wf = false := by decide

theorem test_wf_refuses_legal_phase_as_reserved :
    (Instr.reservedPhase 0).wf = false ∧ (Instr.reservedPhase 9).wf = false := by decide

theorem test_wf_accepts : (Instr.illegal 3).wf = true ∧ (Instr.illegal 0x80000001).wf = true ∧
    (Instr.reservedPhase 0xA).wf = true ∧ (Instr.wr32 0xFFFFFFFF 0xFFFFFFFF).wf = true := by decide

/-- R90: the reference encoding of a read carries no write data. -/
theorem test_reference_form : (Instr.rd8 0x40 1).isReferenceForm = false ∧
    (Instr.rd32 4 0).isReferenceForm = true ∧ (Instr.wr8 0x10000 1).isReferenceForm = true := by decide

/-! Each word is written out from the fields of R90 with R91, R93 or R95; the records are lines of V10, P2 and P4. -/

theorem test_decode_rd8 : decodeTableWord 66 0x0000000400000000 = some (.rd8 0x00000004 0) := by decide
theorem test_decode_wr8 : decodeTableWord 66 0x1000100010000007A = some (.wr8 0x00010001 0x7A) := by decide
theorem test_decode_rd32 : decodeTableWord 66 0x2000100000000000A = some (.rd32 0x00010000 0xA) := by decide
theorem test_decode_wr32 : decodeTableWord 66 0x30000001012345678 = some (.wr32 0x00000010 0x12345678) := by decide
theorem test_decode_wr32_whole_bytes : decodeTableWord 72 0x3FFFFFFFF00000001 = some (.wr32 0xFFFFFFFF 1) := by decide
theorem test_decode_nop : decodeTableWord 32 0x00000000 = some .nop := by decide
theorem test_decode_start : decodeTableWord 32 0x00000001 = some .start := by decide
theorem test_decode_abort : decodeTableWord 32 0x00000002 = some .abort := by decide
theorem test_decode_illegal_op : decodeTableWord 32 0x0000000F = some (.illegal 0x0000000F) := by decide
theorem test_decode_illegal_rsv : decodeTableWord 32 0x80000001 = some (.illegal 0x80000001) := by decide
theorem test_decode_idle : decodeTableWord 4 0x0 = some .idle := by decide
theorem test_decode_init : decodeTableWord 4 0x1 = some .init := by decide
theorem test_decode_pad : decodeTableWord 4 0x2 = some .pad := by decide
theorem test_decode_load : decodeTableWord 4 0x3 = some .load := by decide
theorem test_decode_expand : decodeTableWord 4 0x4 = some .expand := by decide
theorem test_decode_winit : decodeTableWord 4 0x5 = some .winit := by decide
theorem test_decode_round : decodeTableWord 4 0x6 = some .round := by decide
theorem test_decode_fold : decodeTableWord 4 0x7 = some .fold := by decide
theorem test_decode_finalize : decodeTableWord 4 0x8 = some .finalize := by decide
theorem test_decode_done : decodeTableWord 8 0x9 = some .done := by decide
theorem test_decode_reserved : decodeTableWord 4 0xA = some (.reservedPhase 0xA) ∧
    decodeTableWord 4 0xF = some (.reservedPhase 0xF) := by decide

/-- No format has these widths, and no bit stands above a format. -/
theorem test_decode_rejects : decodeBits 16 1 = .error (.noFormatOfWidth 16) ∧
    decodeBits 8 0x10 = .error (.bitsAboveFormat 4 0x10) ∧
    decodeBits 72 0x40000000000000000 = .error (.bitsAboveFormat 66 0x40000000000000000) := by decide

/-! ## The datapath's functions -/

/-- V2. -/
theorem test_sigmas : sigma0 0x12345678 = 0xe7fce6ee ∧ sigma1 0x12345678 = 0xa1f78649 ∧
    bigSigma0 0x12345678 = 0x66146474 ∧ bigSigma1 0x12345678 = 0x3561abda ∧
    sigma0 0xffffffff = 0x1fffffff ∧ sigma1 1 = 0x0000a000 := by decide

/-- V3. -/
theorem test_ch_maj : ch 0xffff0000 0x12345678 0x9abcdef0 = 0x1234def0 ∧
    maj 0xffff0000 0xf0f0f0f0 0xcccccccc = 0xfcfcc0c0 := by decide

/-- V4: zeros, padded length and length field at the block's edges. -/
theorem test_pad_sizes : padZeros 0 = 55 ∧ padZeros 55 = 0 ∧ padZeros 56 = 63 ∧ padZeros 119 = 0 ∧
    padZeros 65536 = 55 ∧ blocksFor 55 = 1 ∧ blocksFor 56 = 2 ∧ blocksFor 65536 = 1025 ∧
    lengthField 65536 = [0, 0, 0, 0, 0, 8, 0, 0] ∧ lengthField 57 = [0, 0, 0, 0, 0, 0, 1, 0xc8] := by decide

/-- R5 in the reference configuration (D35). -/
theorem test_reference_sizes : Params.reference.nblkMax = 1025 ∧ Params.reference.pbufMax = 65600 ∧
    Params.reference.blkW = 11 ∧ Params.reference.plenW = 17 := by decide

/-! ## One step each -/

/-- A state with the message "abc" and every register known, at a position. -/
def sample (phase : BitVec 4) (t : BitVec 6) : State where
  H := Rom.IV
  v := Vector.replicate 8 0
  W := Vector.replicate 64 0
  P := []
  PLEN := 64
  NBLK := 1
  BLK := 0
  T := t
  PHASE := phase
  CMDERR := false
  LENERR := false
  MSG_LEN := 3
  MSG := [(0, 0x61), (1, 0x62), (2, 0x63)]
  HEXBUF := Vector.replicate 64 0x66
  params := Params.reference
  response := none
  events := []
  epoch := 0

/-- One fact about the next state, where there is one. -/
def resultOf {α : Type} (f : State → α) : Host.Outcome State Fault Refusal → Option α
  | .next s => some (f s)
  | .fault _ | .refused _ => none

/-- P2: HEX7 of "abc" is 'f'; V10: HEX reads 0 unless done. -/
theorem test_rd8_hex : resultOf (·.response) (exec (.rd8 0x47 0) (sample 9 0)) = some (some ⟨.ok, 0x66⟩) ∧
    resultOf (·.response) (exec (.rd8 0x7F 0) (sample 8 0)) = some (some ⟨.ok, 0⟩) := by decide

/-- P4: MSG reads at any time; V10: the byte past MSG. -/
theorem test_rd8_msg : resultOf (·.response) (exec (.rd8 0x10000 0) (sample 4 18)) = some (some ⟨.ok, 0x61⟩) ∧
    resultOf (·.response) (exec (.rd8 0x20000 0) (sample 4 18)) = some (some ⟨.busErr, 0⟩) := by decide

/-- P5: MSG+2 is written in DONE, with bits 7..0 of the data (R98). -/
theorem test_wr8_msg : resultOf (fun s => (s.MSG, s.response)) (exec (.wr8 0x10002 0xFFFFFF62) (sample 9 0)) =
    some ([(0, 0x61), (1, 0x62), (2, 0x62)], some ⟨.ok, 0⟩) := by decide

/-- P4: dropped while busy; a byte write to CTRL is no START. -/
theorem test_wr8_dropped : resultOf (·.MSG) (exec (.wr8 0x10000 0x7a) (sample 4 18)) = some (sample 4 18).MSG ∧
    resultOf (fun s => (s.PHASE, s.response)) (exec (.wr8 0 1) (sample 0 0)) = some (0, some ⟨.busErr, 0⟩) := by decide

/-- V9: STATUS at (EXPAND, 18), there after a refused START, and when done after a refused length. -/
theorem test_rd32_status : resultOf (·.response) (exec (.rd32 4 0) (sample 4 18)) = some (some ⟨.ok, 0x1241⟩) ∧
    resultOf (·.response) (exec (.rd32 4 0) { sample 4 18 with CMDERR := true }) = some (some ⟨.ok, 0x1245⟩) ∧
    resultOf (·.response) (exec (.rd32 4 0) { sample 9 0 with LENERR := true }) = some (some ⟨.ok, 0x9a⟩) := by decide

/-- R211: DIGEST1 only when done; V10: misaligned and unmapped addresses. -/
theorem test_rd32_digest : resultOf (·.response) (exec (.rd32 0x14 0) (sample 9 0)) = some (some ⟨.ok, 0xbb67ae85⟩) ∧
    resultOf (·.response) (exec (.rd32 0x14 0) (sample 7 0)) = some (some ⟨.ok, 0⟩) ∧
    resultOf (·.response) (exec (.rd32 2 0) (sample 9 0)) = some (some ⟨.busErr, 0⟩) ∧
    resultOf (·.response) (exec (.rd32 0xc 0) (sample 9 0)) = some (some ⟨.busErr, 0⟩) := by decide

/-- P4: MSG_LEN is written when not busy and kept while busy. -/
theorem test_wr32_msg_len : resultOf (·.MSG_LEN) (exec (.wr32 8 0xFFFFFFFF) (sample 0 0)) = some 0xFFFFFFFF ∧
    resultOf (·.MSG_LEN) (exec (.wr32 8 5) (sample 4 18)) = some 3 := by decide

/-- V10: 0x12 written to CTRL is illegal, no ABORT; 1 is START. -/
theorem test_wr32_ctrl : resultOf (fun s => (s.PHASE, s.CMDERR)) (exec (.wr32 0 0x12) (sample 4 18)) = some (4, true) ∧
    resultOf (fun s => (s.PHASE, s.T)) (exec (.wr32 0 1) (sample 9 0)) = some (1, 0) := by decide

theorem test_nop : resultOf (fun s => (s.PHASE, s.CMDERR, s.response)) (exec .nop { sample 9 0 with CMDERR := true }) =
    some (9, true, some ⟨.ok, 0⟩) := by decide

/-- V10: the largest length START accepts, and one more. -/
theorem test_start_length :
    resultOf (fun s => (s.PHASE, s.LENERR)) (exec .start { sample 0 0 with MSG_LEN := 0x10000 }) = some (1, false) ∧
    resultOf (fun s => (s.PHASE, s.LENERR)) (exec .start { sample 9 0 with MSG_LEN := 0x10001 }) = some (9, true) := by
  decide

/-- V9: a START refused while busy; an accepted one clears both flags. -/
theorem test_start_flags : resultOf (fun s => (s.T, s.CMDERR)) (exec .start (sample 4 18)) = some (18, true) ∧
    resultOf (fun s => (s.CMDERR, s.LENERR)) (exec .start { sample 0 0 with CMDERR := true, LENERR := true }) =
      some (false, false) := by decide

/-- V9: ROUND with T = 17, then ABORT. -/
theorem test_abort : resultOf (fun s => (s.PHASE, s.T, s.CMDERR, s.LENERR))
    (exec .abort { sample 6 17 with CMDERR := true, LENERR := true }) = some (0, 0, false, false) := by decide

theorem test_illegal : resultOf (fun s => (s.PHASE, s.CMDERR, s.LENERR)) (exec (.illegal 0x80000001) (sample 3 1)) =
    some (3, true, false) := by decide

theorem test_idle_done : step (sample 0 0) = .next (sample 0 0) ∧ step (sample 9 0) = .next (sample 9 0) := ⟨rfl, rfl⟩

/-- V4: INIT. -/
theorem test_init : resultOf (fun s => (s.H, s.BLK, s.statusWord))
    (exec .init { sample 1 0 with H := Vector.replicate 8 0, BLK := 5 }) = some (Rom.IV, 0, 0x21) := by decide

/-- V4: PAD of "abc". -/
theorem test_pad_abc : resultOf (fun s => (s.PLEN, s.NBLK, s.statusWord)) (exec .pad (sample 2 0)) = some (64, 1, 0x31) ∧
    resultOf (fun s => [0, 2, 3, 4, 55, 62, 63, 64].map s.P.read) (exec .pad (sample 2 0)) =
      some [some 0x61, some 0x63, some 0x80, some 0, some 0, some 0, some 0x18, none] := by decide

/-- P1: PAD of the empty message. -/
theorem test_pad_empty : resultOf (fun s => (s.PLEN, s.NBLK, [0, 1, 63].map s.P.read))
    (exec .pad { sample 2 0 with MSG_LEN := 0 }) = some (64, 1, [some 0x80, some 0, some 0]) := by decide

/-- V5: LOAD of "abc", words 0 and 15. -/
theorem test_load : resultOf (fun s => (s.W[0], s.PHASE, s.T))
      (exec .load { sample 3 0 with P := [(0, 0x61), (1, 0x62), (2, 0x63), (3, 0x80)] }) = some (0x61626380, 3, 1) ∧
    resultOf (fun s => (s.W[15], s.PHASE, s.T))
      (exec .load { sample 3 15 with P := [(60, 0), (61, 0), (62, 0), (63, 0x18)] }) = some (0x18, 4, 16) := by decide

/-- V5: LOAD in block 1 of S3 reads from byte 64 up. -/
theorem test_load_block_one : resultOf (fun s => s.W[15])
    (exec .load { sample 3 15 with BLK := 1, NBLK := 2, P := [(63, 9), (124, 0), (125, 0), (126, 1), (127, 0xc0)] }) =
    some 0x1c0 := by decide

/-- V5: EXPAND of "abc" at 17, where σ1(W[15]) = 000f0000. -/
theorem test_expand : resultOf (fun s => (s.W[17], s.PHASE, s.T))
    (exec .expand { sample 4 17 with W := ((Vector.replicate 64 0).set 15 0x18).set 16 0x61626380 }) =
    some (0x000f0000, 4, 18) := by decide

/-- V5: EXPAND of "abc" at 63: W[47], W[48] (σ0 = 2ae352e5), W[56] and W[61] (σ1 = f21a9d5f); the sum wraps. -/
theorem test_expand_last : resultOf (fun s => (s.W[63], s.PHASE, s.T))
    (exec .expand { sample 4 63 with
      W := ((((Vector.replicate 64 0).set 47 0x065c43da).set 48 0xfb3e89cb).set 56 0xef57b9cd).set 61 0x668b2ff8 }) =
    some (0x12b1edeb, 5, 0) := by decide

/-- V6: WINIT. -/
theorem test_winit : resultOf (fun s => (s.v, s.statusWord)) (exec .winit (sample 5 0)) = some (Rom.IV, 0x61) := by decide

/-- V6: round 0 of "abc". -/
theorem test_round_first : resultOf (fun s => (s.v, s.statusWord))
    (exec .round { sample 6 0 with v := Rom.IV, W := (Vector.replicate 64 0).set 0 0x61626380 }) =
    some (#v[0x5d6aebcd, 0x6a09e667, 0xbb67ae85, 0x3c6ef372, 0xfa2a4622, 0x510e527f, 0x9b05688c, 0x1f83d9ab],
      0x161) := by decide

/-- V6: round 63 of "abc". -/
theorem test_round_last : resultOf (fun s => (s.v, s.statusWord))
    (exec .round { sample 6 63 with
      v := #v[0xd39a2165, 0x04d24d6c, 0xb85e2ce9, 0xb6ae8fff, 0xfb121210, 0x948d25b6, 0x961f4894, 0xb21bad3d],
      W := (Vector.replicate 64 0).set 63 0x12b1edeb }) =
    some (#v[0x506e3058, 0xd39a2165, 0x04d24d6c, 0xb85e2ce9, 0x5ef50f24, 0xfb121210, 0x948d25b6, 0x961f4894],
      0x71) := by decide

/-- V7: FOLD of "abc", block 0 of 1. -/
theorem test_fold_last : resultOf (fun s => (s.H, s.BLK, s.PHASE))
    (exec .fold { sample 7 0 with
      v := #v[0x506e3058, 0xd39a2165, 0x04d24d6c, 0xb85e2ce9, 0x5ef50f24, 0xfb121210, 0x948d25b6, 0x961f4894] }) =
    some (#v[0xba7816bf, 0x8f01cfea, 0x414140de, 0x5dae2223, 0xb00361a3, 0x96177a9c, 0xb410ff61, 0xf20015ad],
      1, 8) := by decide

/-- V7: FOLD of S3, block 0 of 2. -/
theorem test_fold_next_block : resultOf (fun s => (s.H[1], s.BLK, s.PHASE, s.T))
    (exec .fold { sample 7 0 with NBLK := 2, v := (Vector.replicate 8 0).set 1 0x86126910 }) =
    some (0x417a1795, 1, 3, 0) := by decide

/-- V8: FINALIZE. -/
theorem test_finalize : resultOf (fun s => (s.HEXBUF[0], s.HEXBUF[1], s.HEXBUF[7], s.HEXBUF[63], s.statusWord))
    (exec .finalize { sample 8 0 with
      H := #v[0xba7816bf, 0x8f01cfea, 0x414140de, 0x5dae2223, 0xb00361a3, 0x96177a9c, 0xb410ff61, 0xf20015ad] }) =
    some (0x62, 0x61, 0x66, 0x64, 0x92) := by decide

theorem test_reserved_phase : step (sample 0xA 0) = .fault (.stuckReservedPhase 0xA) := rfl

/-- V9: STATUS after reset. -/
theorem test_reset_status : State.reset.statusWord = 0 := by decide

/-- R260 at a busy state. -/
theorem test_reset_event : resultOf (fun s => (s.PHASE, s.T, s.BLK, s.NBLK, s.MSG_LEN))
    (step { sample 6 17 with BLK := 1, NBLK := 2, events := [.reset] }) = some (0, 0, 0, 0, 0) := by decide

/-- R101, R103. -/
theorem test_printed_lines : hostLine (.wr8 0x00010001 0x62) = some "WR8   0x00010001, 0x62" ∧
    (sample 6 17).traceLine = some "ROUND 0,17" := by decide

/-! ## States and operands that meet the obligations' hypotheses

One theorem `meets_<obligation>` each, with one conjunct per clause, at the ends of the clause's range. -/

/-- The record of a START (P1, second line). -/
def startRecord : BitVec 66 := 0x30000000000000001

/-- The record of a read of STATUS (P1, third line). -/
def statusRecord : BitVec 66 := 0x20000000400000000

/-- A state of R44 at each phase up to FOLD, with `T` in the phase's range. -/
theorem sample_sequencer : SequencerInv (sample 1 0) ∧ SequencerInv (sample 2 0) ∧ SequencerInv (sample 3 0) ∧
    SequencerInv (sample 3 14) ∧ SequencerInv (sample 3 15) ∧ SequencerInv (sample 4 16) ∧ SequencerInv (sample 4 62) ∧
    SequencerInv (sample 4 63) ∧ SequencerInv (sample 5 0) ∧ SequencerInv (sample 6 0) ∧ SequencerInv (sample 6 62) ∧
    SequencerInv (sample 6 63) ∧ SequencerInv (sample 7 0) := by
  refine ⟨?_, ?_, ?_, ?_, ?_, ?_, ?_, ?_, ?_, ?_, ?_, ?_, ?_⟩ <;> constructor <;> decide

theorem sample_sequencer_rest : SequencerInv (sample 0 0) ∧ SequencerInv { sample 7 0 with NBLK := 2, PLEN := 128 } ∧
    SequencerInv { sample 8 0 with BLK := 1 } ∧ SequencerInv { sample 9 0 with BLK := 1 } ∧
    SequencerInv (sample 6 17) := by
  refine ⟨?_, ?_, ?_, ?_, ?_⟩ <;> constructor <;> decide

theorem meets_DecodeOfEncode : (Instr.illegal 3).wf = true ∧ (Instr.illegal 0xFFFFFFFF).wf = true ∧
    (Instr.reservedPhase 0xA).wf = true ∧ (Instr.rd8 0xFFFFFFFF 0xFFFFFFFF).wf = true := by decide

theorem meets_CommandOfEveryWord : (0x10 : BitVec 32).toNat / 16 ≠ 0 ∧ (0xFFFFFFFF : BitVec 32).toNat / 16 ≠ 0 ∧
    ((2 : BitVec 32).toNat / 16 = 0 ∧ (2 : BitVec 32).toNat % 16 = 2) ∧
    ((3 : BitVec 32).toNat / 16 = 0 ∧ 3 ≤ (3 : BitVec 32).toNat % 16) ∧
    ((15 : BitVec 32).toNat / 16 = 0 ∧ 3 ≤ (15 : BitVec 32).toNat % 16) := by decide

theorem meets_StepRunsNextEvent : (sample 6 0).events = [] ∧
    ({ sample 6 0 with events := [.engine] } : State).events = .engine :: [] ∧
    ({ sample 6 0 with events := [.host startRecord] } : State).events = .host startRecord :: [] ∧
    ({ sample 6 0 with events := [.reset, .engine] } : State).events = .reset :: [.engine] := by decide

/-- A byte that is written and one that is not, the first and the last of MSG. -/
theorem meets_Rd8Values : (sample 0 0).params.wf ∧ 0 < (sample 0 0).params.msgMaxBytes ∧
    (sample 0 0).MSG.read 0 = some 0x61 ∧ 65535 < (sample 0 0).params.msgMaxBytes ∧
    (sample 0 0).MSG.read 65535 = none := by decide

/-- The phases on either side of busy. -/
theorem meets_Wr32Effects : ¬(1 ≤ (sample 0 0).PHASE.toNat ∧ (sample 0 0).PHASE.toNat ≤ 8) ∧
    ¬(1 ≤ (sample 9 0).PHASE.toNat ∧ (sample 9 0).PHASE.toNat ≤ 8) ∧
    (1 ≤ (sample 1 0).PHASE.toNat ∧ (sample 1 0).PHASE.toNat ≤ 8) ∧
    (1 ≤ (sample 8 0).PHASE.toNat ∧ (sample 8 0).PHASE.toNat ≤ 8) := by decide

theorem meets_Wr8Effects :
    ((sample 1 0).params.wf ∧ 0 < (sample 1 0).params.msgMaxBytes ∧
      1 ≤ (sample 1 0).PHASE.toNat ∧ (sample 1 0).PHASE.toNat ≤ 8) ∧
    ((sample 9 0).params.wf ∧ 65535 < (sample 9 0).params.msgMaxBytes ∧
      ¬(1 ≤ (sample 9 0).PHASE.toNat ∧ (sample 9 0).PHASE.toNat ≤ 8)) := by decide

/-- V10's addresses: unmapped, misaligned, of the other width, and just outside HEX and MSG. -/
theorem meets_NotAdmittedGetsBusErr :
    (∀ off ∈ ([0xC, 0x30, 0x3C, 0x2, 0x12, 0x40, 0x80, 0x10000] : List (BitVec 32)),
      ¬(off.toNat % 4 = 0 ∧ (off.toNat ∈ [0x0000, 0x0004, 0x0008] ∨ 0x0010 ≤ off.toNat ∧ off.toNat < 0x0030))) ∧
    (∀ off ∈ ([0x0, 0x4, 0x2F, 0x3F, 0x80, 0xFFFF, 0x20000, 0xFFFFFFFF] : List (BitVec 32)),
      ¬(0x0040 ≤ off.toNat ∧ off.toNat < 0x0080 ∨
        0x00010000 ≤ off.toNat ∧ off.toNat < 0x00010000 + (sample 0 0).params.msgMaxBytes)) := by
  constructor <;> intro off h <;> fin_cases h <;> decide

/-- V10: the largest length accepted and the least refused. -/
theorem meets_StartOutcomes : (1 ≤ (sample 8 0).PHASE.toNat ∧ (sample 8 0).PHASE.toNat ≤ 8) ∧
    (¬(1 ≤ (sample 9 0).PHASE.toNat ∧ (sample 9 0).PHASE.toNat ≤ 8) ∧
      (sample 9 0).params.msgMaxBytes < (0x10001 : BitVec 32).toNat) ∧
    (¬(1 ≤ (sample 0 0).PHASE.toNat ∧ (sample 0 0).PHASE.toNat ≤ 8) ∧
      (0x10000 : BitVec 32).toNat ≤ (sample 0 0).params.msgMaxBytes) := by decide

theorem meets_CtrlWritePriority :
    (∀ w ∈ ([0x11, 0x12, 0x80000001, 3, 15] : List (BitVec 32)), w.toNat / 16 ≠ 0 ∨ 3 ≤ w.toNat % 16) ∧
    (1 ≤ (sample 1 0).PHASE.toNat ∧ (sample 1 0).PHASE.toNat ≤ 8) ∧
    (¬(1 ≤ (sample 0 0).PHASE.toNat ∧ (sample 0 0).PHASE.toNat ≤ 8) ∧
      (sample 0 0).params.msgMaxBytes < (0x10001 : BitVec 32).toNat) ∧
    (¬(1 ≤ (sample 9 0).PHASE.toNat ∧ (sample 9 0).PHASE.toNat ≤ 8) ∧
      (0x10000 : BitVec 32).toNat ≤ (sample 9 0).params.msgMaxBytes) := by
  refine ⟨fun w h => ?_, by decide, by decide, by decide⟩
  fin_cases h <;> decide

/-- An accepted START that clears CMDERR, as the host's next transaction. -/
theorem meets_ErrorFlagsFallOnlyThere : ∃ s t : State, step s = .next t ∧
    ((s.CMDERR = true ∧ t.CMDERR = false) ∨ (s.LENERR = true ∧ t.LENERR = false)) :=
  ⟨{ sample 0 0 with CMDERR := true, events := [.host startRecord] }, _, rfl, by decide⟩

theorem meets_IdleAndDoneHaveNoStep : ((sample 0 0).PHASE = 0 ∨ (sample 0 0).PHASE = 9) ∧
    ((sample 9 0).PHASE = 0 ∨ (sample 9 0).PHASE = 9) ∧ (sample 9 0).events = [] ∧
    ({ sample 9 0 with events := [.engine] } : State).events = .engine :: [] := by decide

/-- V4: the empty message and the longest one START accepts. -/
theorem meets_PadOutcome :
    (0 = (0 : BitVec 32).toNat ∧ 0 ≤ (sample 2 0).params.msgMaxBytes ∧ 55 = ((55 - ((0 : Nat) : Int)) % 64).toNat) ∧
    (65536 = (0x10000 : BitVec 32).toNat ∧ 65536 ≤ (sample 2 0).params.msgMaxBytes ∧
      55 = ((55 - ((65536 : Nat) : Int)) % 64).toNat) ∧
    63 = ((55 - ((56 : Nat) : Int)) % 64).toNat ∧ 0 = ((55 - ((55 : Nat) : Int)) % 64).toNat := by decide

theorem meets_LoadOutcome : (sample 3 0).T.toNat < 15 ∧ (sample 3 14).T.toNat < 15 ∧ ¬(sample 3 15).T.toNat < 15 := by
  decide

theorem meets_ExpandOutcome : (16 ≤ 16 ∧ 16 < 64 ∧ (sample 4 16).T.toNat = 16 ∧ 16 < 63) ∧
    (16 ≤ 62 ∧ 62 < 64 ∧ (sample 4 62).T.toNat = 62 ∧ 62 < 63) ∧ (sample 4 63).T.toNat = 63 := by decide

/-- V6's round 0: `temp1` and `temp2` are the table's. -/
theorem meets_RoundOutcome : ∃ (s : State) (a b c d e f g h : Word), s.T.toNat = 0 ∧ s.v = #v[a, b, c, d, e, f, g, h] ∧
    (0x54da50e8 : Word) = h + (e.rotateRight 6 ^^^ e.rotateRight 11 ^^^ e.rotateRight 25) + ((e &&& f) ^^^ (~~~e &&& g))
      + Rom.K[0] + s.W[0] ∧
    (0x08909ae5 : Word) = (a.rotateRight 2 ^^^ a.rotateRight 13 ^^^ a.rotateRight 22)
      + ((a &&& b) ^^^ (a &&& c) ^^^ (b &&& c)) ∧
    (sample 6 62).T.toNat = 62 ∧ (sample 6 63).T.toNat = 63 :=
  ⟨{ sample 6 0 with v := Rom.IV, W := (Vector.replicate 64 0).set 0 0x61626380 }, 0x6a09e667, 0xbb67ae85, 0x3c6ef372,
    0xa54ff53a, 0x510e527f, 0x9b05688c, 0x1f83d9ab, 0x5be0cd19, by decide⟩

/-- V7's three rows, and the last block of the largest message (V4). -/
theorem meets_FoldOutcome :
    ((sample 7 0).BLK + 1 < 2 ^ (sample 7 0).params.blkW ∧ ¬(sample 7 0).BLK + 1 < (sample 7 0).NBLK) ∧
    ((sample 7 0).BLK + 1 < 2 ^ (sample 7 0).params.blkW ∧ (sample 7 0).BLK + 1 < 2) ∧
    1024 + 1 < 2 ^ (sample 7 0).params.blkW := by decide

theorem meets_UnreachedFormsComplete : (sample 4 0).T.toNat < 16 ∧ (sample 4 15).T.toNat < 16 ∧
    (sample 2 0).params.msgMaxBytes < (0x10001 : BitVec 32).toNat := by decide

theorem meets_ReservedPhaseIsStuck : 0xA ≤ (sample 0xA 0).PHASE.toNat ∧ (sample 0xA 0).events = [] ∧
    0xA ≤ (sample 0xF 0).PHASE.toNat ∧ (sample 9 0).PHASE.toNat < 0xA ∧ step (sample 9 0) = .next (sample 9 0) :=
  ⟨by decide, rfl, by decide, by decide, rfl⟩

/-- Each row of R144, with the states of `sample_sequencer` and `sample_sequencer_rest`. -/
theorem meets_TransitionTable : SequencerInv (sample 3 14) ∧ (sample 3 14).T.toNat < 15 ∧ SequencerInv (sample 3 15) ∧
    (sample 3 15).T.toNat = 15 ∧ SequencerInv (sample 4 62) ∧ (sample 4 62).T.toNat < 63 ∧ SequencerInv (sample 4 63) ∧
    (sample 4 63).T.toNat = 63 ∧ SequencerInv (sample 6 62) ∧ (sample 6 62).T.toNat < 63 ∧ SequencerInv (sample 6 63) ∧
    (sample 6 63).T.toNat = 63 ∧ SequencerInv (sample 7 0) ∧ (sample 7 0).BLK + 1 = (sample 7 0).NBLK ∧
    SequencerInv { sample 7 0 with NBLK := 2, PLEN := 128 } ∧ (sample 7 0).BLK + 1 < 2 := by
  obtain ⟨-, -, -, a, b, -, c, d, -, -, e, f, g⟩ := sample_sequencer
  exact ⟨a, by decide, b, by decide, c, by decide, d, by decide, e, by decide, f, by decide, g, by decide,
    sample_sequencer_rest.2.1, by decide⟩

theorem meets_EngineLeavesHostState : ∃ t, exec .winit (sample 5 0) = .next t := ⟨_, rfl⟩

theorem meets_OnlyWritersWrite : (∃ t, exec .pad (sample 2 0) = .next t) ∧
    (∃ t, exec (.wr8 0x10000 0x7a) (sample 0 0) = .next t) ∧ (∃ t, exec (.wr32 8 5) (sample 0 0) = .next t) ∧
    Instr.pad ∉ [Instr.init, .fold] ∧ Instr.wr8 0x10000 0x7a ≠ .pad ∧
    Instr.wr32 8 5 ∉ [Instr.start, .abort] ∧ (∀ w, Instr.wr32 8 5 ≠ .illegal w) ∧
    ∀ d, Instr.wr32 8 5 ≠ .wr32 (hostAddr (sample 0 0).params 0x0000) d :=
  ⟨⟨_, rfl⟩, ⟨_, rfl⟩, ⟨_, rfl⟩, by decide, by decide, by decide, by simp,
    fun d h => absurd (Instr.wr32.inj h).1 (by decide)⟩

theorem meets_ResetAsHostSeesIt : ∃ (p : Params) (s : State), s = State.afterReset p [] 7 ∧ p.wf ∧ 63 < p.msgMaxBytes :=
  ⟨{ msgMaxBytes := 64, base := 0x1000 }, _, rfl, by decide, by decide⟩

theorem meets_ResetEventOutcome : ({ sample 6 17 with events := [.reset] } : State).events = .reset :: [] := by decide

theorem meets_StoresInvKept : StoresInv (sample 2 0) ∧ ∃ t, step (sample 2 0) = .next t :=
  ⟨by constructor <;> decide, _, rfl⟩

theorem meets_SequencerInvKept : SequencerInv (sample 2 0) ∧ ∃ t, step (sample 2 0) = .next t :=
  ⟨sample_sequencer.2.1, _, rfl⟩

/-- PAD of "abc", with `H` seeded. -/
theorem meets_ComputationInvKept : SequencerInv (sample 2 0) ∧ ComputationInv (sample 2 0) ∧
    ∃ t, step (sample 2 0) = .next t := by
  refine ⟨sample_sequencer.2.1, ?_, _, rfl⟩
  have p : (sample 2 0).PHASE = 2 := rfl
  constructor
  · exact fun _ => rfl
  all_goals rw [p]; intro h
  · exact absurd h (by decide)
  · exact absurd h (by decide)
  · exact absurd h (by decide)
  · exact absurd h (by decide)
  · exact absurd h (by decide)
  · exact absurd h (by decide)
  · exact absurd h (by decide)

theorem meets_NoStepStops : SequencerInv (sample 3 15) ∧ SequencerInv (sample 4 16) :=
  ⟨sample_sequencer.2.2.2.2.1, sample_sequencer.2.2.2.2.2.1⟩

/-- A host's write of MSG_LEN while busy. -/
theorem meets_MessageFrozenWhileBusy : ∃ s t : State, s.busy = true ∧ (∀ es, s.events ≠ .reset :: es) ∧ step s = .next t :=
  ⟨{ sample 6 17 with events := [.host 0x30000000800000005] }, _, by decide, by simp, rfl⟩

/-- A START refused for length in DONE (P5), as the step taken. -/
theorem meets_ResultStaysReadable : ∃ s t : State, s.done = true ∧ run 1 s = .next t ∧
    (∀ n < 1, ∀ u e es, run n s = .next u → u.events = e :: es →
      e.abandons u.params = false ∧ (e.starts u.params = true → u.acceptsStart = false)) ∧
    ∃ e, s.events = [e] ∧ e.starts s.params = true := by
  refine ⟨{ sample 9 0 with MSG_LEN := 0x10001, events := [.host startRecord] }, _, by decide, rfl, ?_, _, rfl,
    by decide⟩
  intro n hn u e es hu he
  obtain rfl : n = 0 := by omega
  cases hu
  cases he
  decide

/-- Two idle states with different hidden registers. -/
theorem meets_HiddenValuesStayHidden : ∃ s s' : State, SequencerInv s ∧ s.PHASE = PHASE_IDLE ∧ s.H ≠ s'.H ∧
    s' = { s with
      H := Vector.replicate 8 1, v := Vector.replicate 8 2, W := Vector.replicate 64 3, P := [(0, 4)],
      PLEN := 128, HEXBUF := Vector.replicate 64 5 } :=
  ⟨sample 0 0, _, sample_sequencer_rest.1, by decide, by decide, rfl⟩

/-- Two states in the middle of a block that differ in every hidden register. -/
theorem meets_NothingHiddenIsReadable : SameToHost (sample 6 17) { sample 6 17 with
    H := Vector.replicate 8 1, v := Vector.replicate 8 2, W := Vector.replicate 64 3, P := [(0, 4)], PLEN := 128, NBLK := 2,
    BLK := 1, HEXBUF := Vector.replicate 64 5 } := by
  constructor <;> decide

theorem meets_RotationTurnsBits : (1 ≤ 1 ∧ 1 ≤ 31) ∧ (1 ≤ 31 ∧ 31 ≤ 31) ∧ 0 < 32 ∧ 31 < 32 := by decide

theorem meets_BlockCounterWidth : 10 < Params.reference.blkW ∧ 16 < Params.reference.plenW := by decide

theorem meets_DatapathBitByBit : 0 < 32 ∧ 31 < 32 := by decide

theorem meets_PaddingBytes : 0 = ([] : List Byte).length ∧ 55 = ((55 - ((0 : Nat) : Int)) % 64).toNat ∧
    3 = ([0x61, 0x62, 0x63] : List Byte).length ∧ 52 = ((55 - ((3 : Nat) : Int)) % 64).toNat := by decide

theorem meets_PaddingSizes : ∃ (m : List Byte) (n : Nat), 3 = m.length ∧ n = (padMessage m).length ∧ n = 64 :=
  ⟨[0x61, 0x62, 0x63], 64, by decide⟩

/-- A block of zeros, and words of its schedule. -/
theorem meets_ScheduleRecurrence : (List.replicate 64 (0 : Byte)).length = 64 ∧
    (∃ b, (List.replicate 64 (0 : Byte))[4 * 15 + 3]? = some b) ∧
    (∃ w, (schedule (List.replicate 64 0))[63 - 2]? = some w) ∧ ∃ w, (schedule (List.replicate 64 0))[16 - 16]? = some w := by
  refine ⟨by decide, ⟨_, rfl⟩, ?_, ?_⟩
  · exact ⟨_, List.getElem?_eq_getElem (by rw [length_schedule]; omega)⟩
  · exact ⟨_, List.getElem?_eq_getElem (by rw [length_schedule]; omega)⟩

theorem meets_BlockIsCompressed : (sample 3 0).PHASE = PHASE_LOAD ∧ (sample 3 0).T = 0 ∧ (sample 3 0).events = [] ∧
    (sample 3 0).BLK < (sample 3 0).NBLK ∧ (sample 3 0).NBLK ≤ (sample 3 0).params.nblkMax ∧
    ∃ block, block = (List.range 64).map (fun j => (sample 3 0).padByte (64 * (sample 3 0).BLK + j)) :=
  ⟨by decide, by decide, by decide, by decide, by decide, _, rfl⟩

/-- What comes between START and the last micro-operation of "abc": a read of STATUS, a START that is refused, and 132 of
the 133 micro-operations (S2). -/
def beforeLast : List Event := [.host statusRecord, .host startRecord] ++ List.replicate 132 .engine

theorem beforeLast_keeps (p : Params) (h : p.base = 0) : ∀ e ∈ beforeLast, e.abandons p = false := by
  intro e he
  rcases List.mem_append.mp he with he | he
  · rcases List.mem_pair.mp he with rfl | rfl <;> (unfold Event.abandons; rw [h]; decide)
  · rw [List.eq_of_mem_replicate he]; rfl

theorem beforeLast_count : beforeLast.count .engine + 1 = 3 + 130 * blocksFor 3 := by
  simp [beforeLast, blocksFor]

theorem meets_EngineComputesHash : ∃ s : State, s.busy = false ∧ s.MSG_LEN.toNat ≤ s.params.msgMaxBytes ∧
    decodeBus startRecord = .wr32 s.params.base 0x00000001 ∧
    s.events = .host startRecord :: beforeLast ++ .engine :: [] ∧
    (∀ e ∈ beforeLast, e.abandons s.params = false) ∧
    beforeLast.count .engine + 1 = 3 + 130 * blocksFor s.MSG_LEN.toNat :=
  ⟨{ sample 0 0 with events := .host startRecord :: beforeLast ++ .engine :: [] }, by decide, by decide, by decide, rfl,
    beforeLast_keeps _ rfl, beforeLast_count⟩

/-- The empty message and "abc". -/
theorem meets_HostWritesMessage : ∀ m ∈ ([[], [0x61, 0x62, 0x63]] : List (List Byte)), ∃ s : State,
    s.params.wf ∧ s.busy = false ∧ m.length ≤ s.params.msgMaxBytes ∧
    s.events = programEvents s.params [.putMsg m] ++ [.engine] := fun m hm =>
  ⟨{ sample 9 0 with events := programEvents Params.reference [.putMsg m] ++ [.engine] },
    show Params.reference.wf by decide, rfl,
    by revert m; decide, rfl⟩

theorem meets_HostObservesHash : ∃ (s : State) (m : List Byte), s.busy = false ∧ m.length ≤ s.params.msgMaxBytes ∧
    s.MSG_LEN.toNat = m.length ∧ (∀ j < m.length, s.MSG.read j = m[j]?) ∧
    decodeBus startRecord = .wr32 s.params.base 0x00000001 ∧
    s.events = .host startRecord :: beforeLast ++ .engine :: [.host statusRecord, .engine] ++ [.reset] ∧
    (∀ e ∈ beforeLast, e.abandons s.params = false) ∧ beforeLast.count .engine + 1 = 3 + 130 * blocksFor m.length ∧
    ∀ e ∈ [Event.host statusRecord, .engine], e.abandons s.params = false ∧ e.starts s.params = false :=
  ⟨{ sample 9 0 with
      events := .host startRecord :: beforeLast ++ .engine :: [.host statusRecord, .engine] ++ [.reset] },
    [0x61, 0x62, 0x63], by decide, by decide, by decide, by decide, by decide, rfl, beforeLast_keeps _ rfl,
    beforeLast_count, by decide⟩

/-- Two states with the message "abc" whose other registers differ, one of them done with another computation. -/
theorem meets_DigestDependsOnMessageOnly : ∃ s s' : State, s.H ≠ s'.H ∧ s.busy = false ∧ s'.busy = false ∧
    s.MSG_LEN.toNat ≤ s.params.msgMaxBytes ∧ s'.MSG_LEN.toNat ≤ s'.params.msgMaxBytes ∧ s.message = s'.message ∧
    decodeBus startRecord = .wr32 s.params.base 0x00000001 ∧ decodeBus startRecord = .wr32 s'.params.base 0x00000001 ∧
    s.events = .host startRecord :: beforeLast ++ .engine :: [] ∧
    s'.events = .host startRecord :: List.replicate 132 .engine ++ .engine :: [.reset] ∧
    (∀ e ∈ beforeLast, e.abandons s.params = false) ∧
    (∀ e ∈ List.replicate 132 Event.engine, e.abandons s'.params = false) ∧
    beforeLast.count .engine + 1 = 3 + 130 * blocksFor s.MSG_LEN.toNat ∧
    (List.replicate 132 Event.engine).count .engine + 1 = 3 + 130 * blocksFor s'.MSG_LEN.toNat :=
  ⟨{ sample 0 0 with events := .host startRecord :: beforeLast ++ .engine :: [] },
    { sample 9 0 with
      H := Vector.replicate 8 1, MSG := [(0, 0x61), (1, 0x62), (2, 0x63), (3, 0x64)],
      events := .host startRecord :: List.replicate 132 .engine ++ .engine :: [.reset] },
    by decide, by decide, by decide, by decide, by decide, by decide, by decide, by decide, rfl, rfl,
    beforeLast_keeps _ rfl, fun e he => by rw [List.eq_of_mem_replicate he]; rfl, beforeLast_count,
    by rw [List.count_replicate_self]; rfl⟩

/-- Each of the five clauses: a read, a write, a reset, an ABORT and a START in one cycle with the engine. -/
theorem meets_ClockCycleOrder : SequencerInv (sample 6 17) ∧ isReadRecord statusRecord = true ∧
    isReadRecord startRecord = false ∧
    (∃ s : State, SequencerInv s ∧ s.events = Cycle.events ⟨false, some statusRecord⟩ ++ []) ∧
    (∃ s : State, SequencerInv s ∧ s.events = Cycle.events ⟨true, some statusRecord⟩ ++ []) ∧
    (∃ s : State, SequencerInv s ∧ s.events = Cycle.events ⟨false, some (busRecord .wr32 s.params.base 2)⟩ ++ []) ∧
    ∃ s : State, SequencerInv s ∧ s.PHASE = PHASE_FINALIZE ∧
      s.events = Cycle.events ⟨false, some (busRecord .wr32 s.params.base 1)⟩ ++ [] := by
  have any := sample_sequencer_rest.2.2.2.2.setEvents
  have last := sample_sequencer_rest.2.2.1.setEvents
  exact ⟨any [], by decide, by decide, ⟨_, any [.host statusRecord, .engine], by decide⟩,
    ⟨_, any [.reset], by decide⟩, ⟨_, any [.engine, .host (busRecord .wr32 0 2)], by decide⟩,
    ⟨_, last [.engine, .host (busRecord .wr32 0 1)], by decide, by decide⟩⟩

theorem meets_InstancesAreIndependent : ∃ sys', systemStep [sample 6 17, sample 5 0] ⟨1, by decide⟩ = .next sys' :=
  ⟨_, rfl⟩

end Sys2Proof.Tests
end

section
/-! The scope's functions: a rotation turns the bits round (R10), bytes assemble and take apart most significant first
(R13, R14). -/

namespace Sys2Proof.Machine

/-- The bits below `32 - n` come down from `n` above; the rest wrap round from the low end (R10). -/
theorem rotr_getLsbD (x : Word) {n : Nat} (h : 1 ≤ n ∧ n ≤ 31) {i : Nat} (hi : i < 32) :
    (rotr x n h).getLsbD i = x.getLsbD ((i + n) % 32) := by
  rw [rotr_eq_rotateRight, BitVec.getLsbD_rotateRight, Nat.mod_eq_of_lt (by omega : n < 32)]
  by_cases low : i < 32 - n
  · have index : (i + n) % 32 = n + i := by omega
    simp [low, index]
  · have index : (i + n) % 32 = i - (32 - n) := by omega
    simp [low, hi, index]

@[simp] theorem length_be64 (n : BitVec 64) : (be64 n).length = 8 := rfl

/-- Settles O44: the rotation is the library's, whose bits either come down or wrap round. -/
theorem rotationTurnsBits : Obligations.RotationTurnsBits := by
  unfold Obligations.RotationTurnsBits
  intro x n h i hi
  exact rotr_getLsbD x h hi

/-- Settles O46, from the sum that `BE32` is and the byte that `BE64` holds at each place. -/
theorem bigEndianBytes : Obligations.BigEndianBytes := by
  unfold Obligations.BigEndianBytes
  exact ⟨be32_toNat, fun n => ⟨length_be64 n, fun _ hj => be64_getElem? n hj⟩⟩

end Sys2Proof.Machine
end

section
/-! The events of a step one by one, and what each kind of event does: the engine's turn within R44's phases answers and
does not look at the response, a read changes only the response, a CTRL write performs its command. -/

namespace Sys2Proof.Machine

/-! ## Steps and short runs -/

/-- The engine's turn runs the micro-operation PHASE names. -/
theorem step_of_engine {s : State} {es : List Event} (h : s.events = .engine :: es) :
    step s = exec (decodeUop s.PHASE) (s.setEvents es) := by
  simp [step, fetch, h, decode]

/-- The host's turn runs the transaction of the record. -/
theorem step_of_host {s : State} {record : BitVec 66} {es : List Event} (h : s.events = .host record :: es) :
    step s = exec (decodeBus record) (s.setEvents es) := by
  simp [step, fetch, h, decode]

/-- An asserted reset input is taken. -/
theorem step_of_reset {s : State} {es : List Event} (h : s.events = .reset :: es) :
    step s = .next (s.setEvents es).takeReset := by
  simp [step, fetch, h]

/-- Two steps make a run. -/
theorem run_two {s t u : State} (first : step s = .next t) (second : step t = .next u) : run 2 s = .next u :=
  (run_succ first 1).trans (run_succ second 0)

/-! ## The engine's turn -/

/-- In R44's phases the engine's turn answers a next state (R240). -/
theorem exec_uop_answers {s : State} (h : s.PHASE.toNat ≤ 9) : ∃ t, exec (decodeUop s.PHASE) s = .next t := by
  rcases exec_uop_cases s with ⟨_, idle⟩ | ⟨_, init⟩ | ⟨_, pad⟩ | ⟨_, load⟩ | ⟨_, expand⟩ | ⟨_, winit⟩ | ⟨_, round⟩ |
    ⟨_, fold⟩ | ⟨_, finalize⟩ | ⟨_, done⟩ | ⟨reserved, _⟩
  · exact ⟨_, idle⟩
  · exact ⟨_, init⟩
  · exact ⟨_, pad⟩
  · exact ⟨_, load.trans (apply_ite Host.Outcome.next _ _ _).symm⟩
  · exact ⟨_, expand.trans (apply_ite Host.Outcome.next _ _ _).symm⟩
  · exact ⟨_, winit⟩
  · exact ⟨_, round.trans (apply_ite Host.Outcome.next _ _ _).symm⟩
  · exact ⟨_, fold.trans (apply_ite Host.Outcome.next _ _ _).symm⟩
  · exact ⟨_, finalize⟩
  · exact ⟨_, done⟩
  · omega

/-- An update goes into both branches of a micro-operation that ends in one of two states. -/
theorem next_of_ite {c : Prop} [Decidable c] {a b t : State} (f : State → State)
    (h : (if c then .next a else .next b : Host.Outcome State Fault Refusal) = .next t) :
    (if c then .next (f a) else .next (f b) : Host.Outcome State Fault Refusal) = .next (f t) := by
  split at h <;> next branch => cases h; simp [branch]

/-- A micro-operation does not look at the response, and keeps it. LOAD, EXPAND, ROUND and FOLD end in one of two
states, on a test that does not read the response either. -/
theorem exec_uop_response {s t : State} (h : exec (decodeUop s.PHASE) s = .next t) (r : Option Response) :
    exec (decodeUop s.PHASE) { s with response := r } = .next { t with response := r } := by
  rcases exec_uop_cases s with ⟨p, e⟩ | ⟨p, e⟩ | ⟨p, e⟩ | ⟨p, e⟩ | ⟨p, e⟩ | ⟨p, e⟩ | ⟨p, e⟩ | ⟨p, e⟩ | ⟨p, e⟩ |
    ⟨p, e⟩ | ⟨_, e⟩ <;> rw [e] at h <;> try (cases h; rw [p]; rfl)
  pick_goal 5
  · cases h
  all_goals rw [p]; exact (next_of_ite (fun u => { u with response := r }) h :)

/-! ## Transactions -/

/-- A read answers the same whatever events are to come, and changes nothing but the response (R68). -/
theorem exec_read (s : State) {record : BitVec 66} (h : isReadRecord record = true) : ∃ r : Response, ∀ es,
    exec (decodeBus record) (s.setEvents es) = .next { s.setEvents es with response := some r } := by
  obtain ⟨k, code, e⟩ := decodeBus_cases record
  rw [isReadRecord, ← code, decodeKind_code] at h
  rw [e]
  cases k
  case rd8 =>
    simp only [exec, execRd8, State.setEvents_params]
    cases locate s.params _
    case hex k => exact ⟨⟨.ok, (if s.done then s.HEXBUF[k] else 0x00).setWidth 32⟩, fun _ => rfl⟩
    case msg j => exact ⟨⟨.ok, (s.msgByte j).setWidth 32⟩, fun _ => rfl⟩
    all_goals exact ⟨⟨.busErr, 0⟩, fun _ => rfl⟩
  case rd32 =>
    simp only [exec, execRd32, State.setEvents_params]
    cases locate s.params _
    case ctrl => exact ⟨⟨.ok, 0⟩, fun _ => rfl⟩
    case status => exact ⟨⟨.ok, s.statusWord⟩, fun _ => rfl⟩
    case msgLen => exact ⟨⟨.ok, s.MSG_LEN⟩, fun _ => rfl⟩
    case digest i => exact ⟨⟨.ok, if s.done then s.H[i] else 0⟩, fun _ => rfl⟩
    all_goals exact ⟨⟨.busErr, 0⟩, fun _ => rfl⟩
  all_goals cases h

/-- Every transaction answers. -/
theorem exec_bus_answers (s : State) (record : BitVec 66) : ∃ t, exec (decodeBus record) s = .next t :=
  let ⟨_, _, e, _⟩ := exec_bus_cases record s
  ⟨_, e⟩

/-- A WR32 to `BASE` performs the command of its word (R213). -/
theorem exec_wr32_base (s : State) (w : BitVec 32) :
    exec (.wr32 s.params.base w) s = .next ((performCommand s w).respondOk 0) := by
  simp [exec, execWr32]

end Sys2Proof.Machine
end

section
/-! The address map and the memory rules: what the map does not admit (R64, R220), the message while busy (R70) and the
result once done (R73). -/

namespace Sys2Proof.Machine

/-! ## Transactions the map does not admit -/

theorem offsetOf_base_add (p : Params) (off : BitVec 32) : offsetOf p (p.base + off) = off.toNat := by
  rw [offsetOf, BitVec.add_comm, BitVec.add_sub_cancel]

/-- An address that is no aligned 32-bit register lies in HEX, in MSG or nowhere (R61-R63). -/
theorem locate_of_not_register {p : Params} {addr : BitVec 32} (h : ¬(offsetOf p addr % 4 = 0 ∧
    (offsetOf p addr ∈ [0x0000, 0x0004, 0x0008] ∨ 0x0010 ≤ offsetOf p addr ∧ offsetOf p addr < 0x0030))) :
    (∃ k, locate p addr = .hex k) ∨ (∃ j, locate p addr = .msg j) ∨ locate p addr = .unmapped := by
  have spec := locate_spec p addr
  cases l : locate p addr <;> rw [l] at spec <;> dsimp only at spec
  case ctrl | status | msgLen => simp [spec] at h
  case digest i => exact absurd ⟨by omega, .inr (by omega)⟩ h
  all_goals simp

/-- An address outside the byte windows lies neither in HEX nor in MSG (R61). -/
theorem locate_of_not_byte {p : Params} {addr : BitVec 32}
    (h : ¬(0x0040 ≤ offsetOf p addr ∧ offsetOf p addr < 0x0080 ∨
      0x00010000 ≤ offsetOf p addr ∧ offsetOf p addr < 0x00010000 + p.msgMaxBytes)) :
    (∀ k, locate p addr ≠ .hex k) ∧ ∀ j, locate p addr ≠ .msg j := by
  have spec := locate_spec p addr
  constructor <;> intro i l <;> rw [l] at spec <;> dsimp only at spec <;> omega

/-- Settles O11: what is no register lies where RD32 and WR32 answer BUSERR, and what is no byte where RD8 and WR8 do. -/
theorem notAdmittedGetsBusErr : Obligations.NotAdmittedGetsBusErr := by
  unfold Obligations.NotAdmittedGetsBusErr
  intro s off d
  constructor <;> intro h <;> rw [← offsetOf_base_add s.params off] at h
  · rcases locate_of_not_register h with ⟨_, l⟩ | ⟨_, l⟩ | l <;> simp [exec, execRd32, execWr32, l, State.respondBusErr]
  · obtain ⟨noHex, noMsg⟩ := locate_of_not_byte h
    simp only [exec, execRd8, execWr8]
    cases l : locate s.params (s.params.base + off)
    case hex k => exact absurd l (noHex k)
    case msg j => exact absurd l (noMsg j)
    all_goals exact ⟨rfl, rfl⟩

/-! ## The message while busy -/

/-- A transaction while busy changes neither the message bytes nor the length (R70). -/
theorem exec_bus_message_of_busy {record : BitVec 66} {s t : State} (busy : s.busy = true)
    (h : exec (decodeBus record) s = .next t) : t.MSG = s.MSG ∧ t.MSG_LEN = s.MSG_LEN := by
  obtain ⟨s', r, e, c⟩ := exec_bus_cases record s
  cases e.symm.trans h
  rcases c with rfl | ⟨w, -, rfl⟩ | ⟨_, _, free, -⟩ | ⟨_, free, -⟩
  · exact ⟨rfl, rfl⟩
  · obtain ⟨-, -, -, -, -, -, -, len, msg, -⟩ := performCommand_frame s w
    exact ⟨msg, len⟩
  · simp [busy] at free
  · simp [busy] at free

/-- The message PAD reads depends on MSG, MSG_LEN and, where a byte is unwritten, the reset count. -/
theorem message_congr {s t : State} (msg : t.MSG = s.MSG) (len : t.MSG_LEN = s.MSG_LEN) (epoch : t.epoch = s.epoch) :
    t.message = s.message := by
  unfold State.message State.msgByte
  rw [msg, len, epoch]

/-- Settles O40: no micro-operation writes the message, and a transaction does so only while not busy. -/
theorem messageFrozenWhileBusy : Obligations.MessageFrozenWhileBusy := by
  unfold Obligations.MessageFrozenWhileBusy
  intro s t busy noReset h
  rcases step_cases h with ⟨es, -, e⟩ | ⟨record, es, -, e⟩ | ⟨es, reset, -⟩
  · obtain ⟨-, -, len, msg, -, -, -, epoch⟩ := exec_uop_frame (s := s.setEvents es) e
    exact ⟨msg, len, message_congr msg len epoch⟩
  · obtain ⟨msg, len⟩ := exec_bus_message_of_busy (s := s.setEvents es) busy e
    obtain ⟨-, -, -, -, -, -, -, -, -, -, epoch⟩ := exec_bus_frame e
    exact ⟨msg, len, message_congr msg len epoch⟩
  · exact absurd reset (noReset es)

/-! ## The result once done -/

/-- The event takes no result away: no ABORT, no reset, no START that would be accepted (R73). -/
def KeepsResult (s : State) (e : Event) : Prop :=
  e.abandons s.params = false ∧ (e.starts s.params = true → s.acceptsStart = false)

/-- `t` shows the result `s` shows, at the same addresses. -/
structure SameResult (s t : State) : Prop where
  phase : t.PHASE = PHASE_DONE
  hash : t.H = s.H
  hex : t.HEXBUF = s.HEXBUF
  params : t.params = s.params

theorem done_iff (s : State) : s.done = true ↔ s.PHASE = PHASE_DONE := decide_eq_true_iff

/-- A CTRL write that neither aborts nor starts anything leaves PHASE. -/
theorem performCommand_PHASE {s : State} {w : BitVec 32} (noAbort : w ≠ 2) (noStart : w = 1 → s.acceptsStart = false) :
    (performCommand s w).PHASE = s.PHASE := by
  rcases performCommand_cases s w with e | e | ⟨_, _, _, e⟩ | ⟨free, fits, start, _⟩ | ⟨abort, _⟩
  · rw [e]
  · rw [e]; rfl
  · rw [e]; rfl
  · have := noStart start
    simp [State.acceptsStart, free, fits] at this
  · exact absurd abort noAbort

/-- A transaction that takes no result away leaves PHASE. -/
theorem exec_bus_PHASE {record : BitVec 66} {s t : State} (keeps : KeepsResult s (.host record))
    (h : exec (decodeBus record) s = .next t) : t.PHASE = s.PHASE := by
  obtain ⟨s', r, e, c⟩ := exec_bus_cases record s
  cases e.symm.trans h
  obtain ⟨noAbort, noStart⟩ := keeps
  rcases c with rfl | ⟨w, decoded, rfl⟩ | ⟨_, _, _, -, rfl⟩ | ⟨_, _, rfl⟩
  · rfl
  · refine performCommand_PHASE (fun abort => ?_) (fun start => noStart ?_)
    · simp [Event.abandons, decoded, abort] at noAbort
    · simp [Event.starts, decoded, start]
  · rfl
  · rfl

/-- One step of a done state whose event takes no result away shows the same result. -/
theorem step_sameResult {s t : State} (done : s.PHASE = PHASE_DONE)
    (keeps : ∀ e es, s.events = e :: es → KeepsResult s e) (h : step s = .next t) : SameResult s t := by
  rcases step_cases h with ⟨es, -, e⟩ | ⟨record, es, taken, e⟩ | ⟨es, taken, -⟩
  · rw [done] at e
    cases e
    exact ⟨done, rfl, rfl, rfl⟩
  · have phase := exec_bus_PHASE (s := s.setEvents es) (keeps _ _ taken) e
    obtain ⟨hash, -, -, -, -, -, -, hex, params, -⟩ := exec_bus_frame e
    exact ⟨phase.trans done, hash, hex, params⟩
  · obtain ⟨noReset, -⟩ := keeps _ _ taken
    cases noReset

/-- A run from a done state none of whose events takes the result away shows the same result. -/
theorem run_sameResult {s t : State} {k : Nat} (done : s.PHASE = PHASE_DONE)
    (keeps : ∀ n < k, ∀ u e es, run n s = .next u → u.events = e :: es → KeepsResult u e) (h : run k s = .next t) :
    SameResult s t := by
  induction k generalizing s with
  | zero => cases h; exact ⟨done, rfl, rfl, rfl⟩
  | succ k ih =>
    obtain ⟨s', first, rest⟩ := run_succ_inv h
    obtain ⟨done', hash, hex, params⟩ := step_sameResult done (fun e es => keeps 0 k.succ_pos s e es rfl) first
    obtain ⟨phase, hash', hex', params'⟩ := ih done'
      (fun n hn u e es r => keeps (n + 1) (Nat.succ_lt_succ hn) u e es ((run_succ first n).trans r)) rest
    exact ⟨phase, hash'.trans hash, hex'.trans hex, params'.trans params⟩

/-- RD32 of a DIGEST word in DONE (R211). -/
theorem exec_rd32_digest {s : State} (done : s.done = true) (i : Fin 8) (d : BitVec 32) :
    exec (.rd32 (hostAddr s.params (0x0010 + 4 * i)) d) s = .next { s with response := some ⟨.ok, s.H[i]⟩ } := by
  have at_i := locate_digest i (offsetOf_hostAddr s.params (off := 0x0010 + 4 * i) (by omega))
  simp [exec, execRd32, at_i, done, State.respondOk]

/-- RD8 of a HEX byte in DONE (R218). -/
theorem exec_rd8_hex {s : State} (done : s.done = true) (k : Fin 64) (d : BitVec 32) :
    exec (.rd8 (hostAddr s.params (0x0040 + k)) d) s =
      .next { s with response := some ⟨.ok, (s.HEXBUF[k]).setWidth 32⟩ } := by
  have at_k := locate_hex k (offsetOf_hostAddr s.params (off := 0x0040 + k) (by omega))
  simp [exec, execRd8, at_k, done, State.respondOk]

/-- Settles O41, by induction on the run: none of its events moves PHASE out of DONE, where nothing writes H or HEXBUF. -/
theorem resultStaysReadable : Obligations.ResultStaysReadable := by
  unfold Obligations.ResultStaysReadable
  intro s t k done h keeps
  obtain ⟨phase, hash, hex, params⟩ := run_sameResult ((done_iff s).mp done) keeps h
  have done' := (done_iff t).mpr phase
  rw [← hash, ← hex, ← params]
  exact ⟨done', fun i => exec_rd32_digest done' i 0, fun i => exec_rd8_hex done' i 0⟩

end Sys2Proof.Machine
end

section
/-! The order within one clock cycle (R72, R245): the two events of a cycle, in each of its two orders. -/

namespace Sys2Proof.Machine

/-- A cycle with a read: the read samples `s`, and the micro-operation then runs as it would have without it (R72). -/
theorem run_readCycle {s t : State} {record : BitVec 66} {rest : List Event}
    (events : s.events = .host record :: .engine :: rest) (read : isReadRecord record = true)
    (turn : exec (decodeUop s.PHASE) s = .next t) : ∃ r, exec (decodeBus record) s = .next { s with response := r } ∧
      run 2 s = .next { t with response := r, events := rest } := by
  obtain ⟨r, answers⟩ := exec_read s read
  refine ⟨some r, answers s.events, ?_⟩
  have turn' : exec (decodeUop s.PHASE) (s.setEvents rest) = .next (t.setEvents rest) := by
    rw [exec_uop_setEvents, turn]
  exact run_two ((step_of_host events).trans (answers _))
    ((step_of_engine rfl).trans (exec_uop_response (s := s.setEvents rest) turn' (some r)))

/-- A cycle with a write: the transaction takes effect on the state the micro-operation left (R72). -/
theorem run_writeCycle {s t t' : State} {record : BitVec 66} {rest : List Event}
    (events : s.events = .engine :: .host record :: rest) (turn : exec (decodeUop s.PHASE) s = .next t)
    (write : exec (decodeBus record) (t.setEvents rest) = .next t') : run 2 s = .next t' := by
  have first : step s = .next (t.setEvents (.host record :: rest)) := by
    rw [step_of_engine events, exec_uop_setEvents, turn]
  exact run_two first ((step_of_host rfl).trans write)

theorem readCycle_events {record : BitVec 66} (h : isReadRecord record = true) :
    Cycle.events ⟨false, some record⟩ = [.host record, .engine] := by simp [Cycle.events, h]

theorem writeCycle_events {record : BitVec 66} (h : isReadRecord record = false) :
    Cycle.events ⟨false, some record⟩ = [.engine, .host record] := by simp [Cycle.events, h]

@[simp] theorem isReadRecord_wr32 (addr wdata : BitVec 32) : isReadRecord (busRecord .wr32 addr wdata) = false := by
  simp [isReadRecord]

/-- A cycle with a CTRL write performs its command on the state the micro-operation left. -/
theorem run_ctrlCycle {s t : State} {w : BitVec 32} {rest : List Event}
    (events : s.events = Cycle.events ⟨false, some (busRecord .wr32 s.params.base w)⟩ ++ rest)
    (turn : exec (decodeUop s.PHASE) s = .next t) :
    run 2 s = .next ((performCommand (t.setEvents rest) w).respondOk 0) := by
  rw [writeCycle_events (isReadRecord_wr32 _ _)] at events
  obtain ⟨-, -, -, -, params, -⟩ := exec_uop_frame turn
  refine run_writeCycle events turn ?_
  rw [decodeBus_wr32, ← params]
  exact exec_wr32_base (t.setEvents rest) w

/-- FINALIZE leaves a state that accepts a START: it is done, and the length START accepted still stands. -/
theorem finalize_acceptsStart {s t : State} (inv : SequencerInv s) (phase : s.PHASE = PHASE_FINALIZE)
    (turn : exec (decodeUop s.PHASE) s = .next t) : t.acceptsStart = true := by
  have fits := inv.len_ok (by simp [State.busy, phase])
  obtain ⟨-, -, len, -, params, -⟩ := exec_uop_frame turn
  have done : t.PHASE = PHASE_DONE := by rw [phase] at turn; cases turn; rfl
  simp [State.acceptsStart, State.busy, done, len, params, fits]

/-- The START word in a state that accepts it (R215). -/
theorem performCommand_start {s : State} (h : s.acceptsStart = true) :
    performCommand s 1 = s.clearErrors.goto PHASE_INIT 0 := by
  obtain ⟨free, fits⟩ : s.busy = false ∧ s.MSG_LEN.toNat ≤ s.params.msgMaxBytes := by simpa [State.acceptsStart] using h
  simp [performCommand, commandStart, free, fits]

/-- Settles O59: the events of a cycle are run in R72's order, and FINALIZE leaves a state that accepts a START. -/
theorem clockCycleOrder : Obligations.ClockCycleOrder := by
  unfold Obligations.ClockCycleOrder
  intro s record rest inv
  obtain ⟨t, turn⟩ := exec_uop_answers inv.phase_legal
  refine ⟨fun events read => ?_, fun events write => ?_, fun events => ?_, fun events => ?_, fun events phase => ?_⟩
  · rw [readCycle_events read] at events
    obtain ⟨r, sampled, ran⟩ := run_readCycle events read turn
    exact ⟨r, t, sampled, turn, ran⟩
  · rw [writeCycle_events write] at events
    obtain ⟨t', answers⟩ := exec_bus_answers (t.setEvents rest) record
    exact ⟨t, t', turn, answers, run_writeCycle events turn answers⟩
  · exact run_succ (step_of_reset events) 0
  · exact ⟨_, run_ctrlCycle events turn, rfl, rfl⟩
  · have accepts := finalize_acceptsStart inv phase turn
    have ran := run_ctrlCycle events turn
    rw [performCommand_start (s := t.setEvents rest) accepts] at ran
    exact ⟨_, ran, rfl, rfl, rfl, rfl⟩

end Sys2Proof.Machine
end

section
/-! The decoding of command words by the value of their fields (R94), and the reserved phases (R97): the engine is stuck
in them, and no step from outside leads into them. -/

namespace Sys2Proof.Machine

/-! ## Command words -/

/-- A word whose RSV field is 0 is the number in its OP field. -/
theorem eq_ofNat_of_fields {w : BitVec 32} {n : Nat} (rsv : w.toNat / 16 = 0) (op : w.toNat % 16 = n) :
    w = BitVec.ofNat 32 n :=
  BitVec.eq_of_toNat_eq (by rw [BitVec.toNat_ofNat]; omega)

/-- The words of the three legal commands are 0, 1 and 2 (R93), so any other value of a field is ILLEGAL. -/
theorem decodeCommand_eq_illegal {w : BitVec 32} (h : w.toNat / 16 ≠ 0 ∨ 3 ≤ w.toNat % 16) :
    decodeCommand w = .illegal := by
  have spec := decodeCommand_spec w
  cases d : decodeCommand w <;> simp only [d] at spec
  case illegal => rfl
  all_goals simp [spec] at h

/-- Settles O3: with RSV = 0 the word is its OP field, and the rest is ILLEGAL. -/
theorem commandOfEveryWord : Obligations.CommandOfEveryWord := by
  unfold Obligations.CommandOfEveryWord
  intro w
  refine ⟨fun rsv => decodeCommand_eq_illegal (.inl rsv), fun rsv op => ?nop, fun rsv op => ?start,
    fun rsv op => ?abort, fun _ op => decodeCommand_eq_illegal (.inr op)⟩
  case nop => rw [eq_ofNat_of_fields rsv op, decodeCommand_zero]
  case start => rw [eq_ofNat_of_fields rsv op, decodeCommand_one]
  case abort => rw [eq_ofNat_of_fields rsv op, decodeCommand_two]

/-! ## Reserved phases -/

/-- With no event to come the engine has the turn. -/
theorem step_of_silence {s : State} (h : s.events = []) : step s = exec (decodeUop s.PHASE) s := by
  simp [step, fetch, h, decode]

/-- The engine's turn in a reserved phase stops with the fault of its code (R97). -/
theorem step_of_reserved {s : State} (reserved : 0xA ≤ s.PHASE.toNat)
    (turn : s.events = [] ∨ ∃ es, s.events = .engine :: es) : step s = .fault (.stuckReservedPhase s.PHASE) := by
  rcases turn with silent | ⟨es, engine⟩
  · exact (step_of_silence silent).trans (exec_reserved s reserved)
  · exact (step_of_engine engine).trans (exec_reserved (s.setEvents es) reserved)

/-- `s` is in none of the reserved phases. -/
def State.OutsideReserved (s : State) : Prop := s.PHASE.toNat < 0xA

theorem goto_outsideReserved {p : BitVec 4} (s : State) (t : BitVec 6) (legal : p.toNat < 0xA := by decide) :
    (s.goto p t).OutsideReserved := legal

/-- A micro-operation that ends in one of two states, neither in a reserved phase, ends in none. -/
theorem outsideReserved_of_ite {c : Prop} [Decidable c] {a b t : State} (ha : a.OutsideReserved) (hb : b.OutsideReserved)
    (h : (if c then .next a else .next b : Host.Outcome State Fault Refusal) = .next t) : t.OutsideReserved := by
  split at h <;> cases h <;> assumption

/-- No micro-operation leads into a reserved phase: it stays in IDLE or DONE or goes to a phase it names, one of two for
LOAD, EXPAND, ROUND and FOLD. -/
theorem exec_uop_outsideReserved {s t : State} (h : exec (decodeUop s.PHASE) s = .next t) : t.OutsideReserved := by
  rcases exec_uop_cases s with ⟨idle, e⟩ | ⟨-, e⟩ | ⟨-, e⟩ | ⟨-, e⟩ | ⟨-, e⟩ | ⟨-, e⟩ | ⟨-, e⟩ | ⟨-, e⟩ | ⟨-, e⟩ |
    ⟨done, e⟩ | ⟨-, e⟩ <;> rw [e] at h
  · cases h; simp [State.OutsideReserved, idle]
  · cases h; exact goto_outsideReserved _ _
  · cases h; exact goto_outsideReserved _ _
  · exact outsideReserved_of_ite (goto_outsideReserved _ _) (goto_outsideReserved _ _) h
  · exact outsideReserved_of_ite (goto_outsideReserved _ _) (goto_outsideReserved _ _) h
  · cases h; exact goto_outsideReserved _ _
  · exact outsideReserved_of_ite (goto_outsideReserved _ _) (goto_outsideReserved _ _) h
  · exact outsideReserved_of_ite (goto_outsideReserved _ _) (goto_outsideReserved _ _) h
  · cases h; exact goto_outsideReserved _ _
  · cases h; simp [State.OutsideReserved, done]
  · cases h

/-- A CTRL write leads into no reserved phase: it leaves PHASE, or goes to INIT or IDLE. -/
theorem performCommand_outsideReserved {s : State} (h : s.OutsideReserved) (w : BitVec 32) :
    (performCommand s w).OutsideReserved := by
  rcases performCommand_cases s w with e | e | ⟨-, -, -, e⟩ | ⟨-, -, -, e⟩ | ⟨-, e⟩ <;> rw [e]
  · exact h
  · exact h
  · exact h
  · exact goto_outsideReserved _ _
  · exact goto_outsideReserved _ _

/-- A transaction leads into no reserved phase: of its effects only a command moves PHASE. -/
theorem exec_bus_outsideReserved {record : BitVec 66} {s t : State} (outside : s.OutsideReserved)
    (h : exec (decodeBus record) s = .next t) : t.OutsideReserved := by
  obtain ⟨s', r, e, effect⟩ := exec_bus_cases record s
  cases e.symm.trans h
  rcases effect with rfl | ⟨w, -, rfl⟩ | ⟨_, _, -, -, rfl⟩ | ⟨_, -, rfl⟩
  · exact outside
  · exact performCommand_outsideReserved outside w
  · exact outside
  · exact outside

/-- A step from outside the reserved phases stays outside, whatever its event. -/
theorem step_outsideReserved {s t : State} (outside : s.OutsideReserved) (h : step s = .next t) : t.OutsideReserved := by
  rcases step_cases h with ⟨es, -, turn⟩ | ⟨record, es, -, transaction⟩ | ⟨es, -, rfl⟩
  · exact exec_uop_outsideReserved (s := s.setEvents es) turn
  · exact exec_bus_outsideReserved (s := s.setEvents es) outside transaction
  · exact (by decide : PHASE_IDLE.toNat < 0xA)

/-- Settles O29: the engine's turn answers by `exec_reserved`, and each kind of event keeps PHASE outside 0xA..0xF. -/
theorem reservedPhaseIsStuck : Obligations.ReservedPhaseIsStuck := by
  unfold Obligations.ReservedPhaseIsStuck
  exact ⟨fun _ _ => rfl, fun _ => step_of_reserved, (by decide : PHASE_IDLE.toNat < 0xA),
    fun _ _ => step_outsideReserved⟩

end Sys2Proof.Machine
end

section
/-! The preprocessor: the padded message byte by byte (R120), its sizes (R121) and its length field (R124), and the two
micro-operations INIT and PAD (R122, R123). -/

namespace Sys2Proof.Machine

/-! ## The padded message by the place of its bytes -/

/-- The message comes first, unchanged. -/
theorem padMessage_getElem?_message {m : List Byte} {j : Nat} (h : j < m.length) : (padMessage m)[j]? = m[j]? := by
  rw [padMessage, List.append_assoc, List.append_assoc, List.getElem?_append_left h]

/-- The byte 0x80 follows the message. -/
theorem padMessage_getElem?_mark (m : List Byte) : (padMessage m)[m.length]? = some 0x80 := by
  simp [padMessage]

/-- The zeros follow the byte 0x80. -/
theorem padMessage_getElem?_zero {m : List Byte} {i : Nat} (h : i < padZeros m.length) :
    (padMessage m)[m.length + 1 + i]? = some 0x00 := by
  rw [padMessage, List.getElem?_append_left (by simp; omega), List.getElem?_append_right (by simp)]
  simp [h]

/-- The length field follows the zeros. -/
theorem padMessage_getElem?_lengthField (m : List Byte) (j : Nat) :
    (padMessage m)[m.length + 1 + padZeros m.length + j]? = (lengthField m.length)[j]? := by
  have front : (m ++ [0x80] ++ List.replicate (padZeros m.length) (0x00 : Byte)).length =
      m.length + 1 + padZeros m.length := by simp; omega
  rw [padMessage, ← front, List.getElem?_append_right (Nat.le_add_right _ _), Nat.add_sub_cancel_left]

/-- Byte `j` of the length field is that of the bit length modulo 2^64 (R120). -/
theorem lengthField_getElem? (len : Nat) {j : Nat} (h : j < 8) :
    (lengthField len)[j]? = some (BitVec.ofNat 8 (8 * len % 2 ^ 64 / 256 ^ (7 - j))) := by
  rw [lengthField, be64_getElem? _ h, BitVec.toNat_ofNat]

/-- Fewer zeros end at no block boundary (R120). -/
theorem padZeros_minimal {len z : Nat} (h : z < padZeros len) : (len + 1 + z + 8) % 64 ≠ 0 := by
  have := padZeros_spec len
  omega

/-- Settles O47, region by region of the padded message. -/
theorem paddingBytes : Obligations.PaddingBytes := by
  unfold Obligations.PaddingBytes
  rintro m _ z rfl hz
  obtain rfl : z = padZeros m.length := hz
  refine ⟨length_padMessage m, fun _ => padMessage_getElem?_message, padMessage_getElem?_mark m,
    fun j above below => ?zeros, fun j hj => ?field, fun _ => padZeros_minimal⟩
  case zeros =>
    obtain ⟨i, rfl⟩ := Nat.exists_eq_add_of_le (Nat.succ_le_of_lt above)
    exact padMessage_getElem?_zero (by omega)
  case field => rw [padMessage_getElem?_lengthField, lengthField_getElem? _ hj]

/-! ## Sizes -/

theorem padZeros_eq_zero_iff (len : Nat) : padZeros len = 0 ↔ len % 64 = 55 := by
  have := padZeros_spec len
  omega

theorem padZeros_eq_63_iff (len : Nat) : padZeros len = 63 ↔ len % 64 = 56 := by
  have := padZeros_spec len
  omega

/-- The lengths that `k` blocks hold (R121). -/
theorem blocksFor_eq_iff (len : Nat) {k : Nat} (h : 1 ≤ k) :
    blocksFor len = k ↔ 64 * (k - 1) ≤ len + 8 ∧ len + 9 ≤ 64 * k := by
  unfold blocksFor
  omega

/-- The byte 0x80 lies in the last block or the one before (R121). -/
theorem markBlock_cases (len : Nat) : len / 64 = blocksFor len - 1 ∨ len / 64 = blocksFor len - 2 := by
  unfold blocksFor
  omega

/-- The length field is the last 8 bytes (R121). -/
theorem padMessage_getElem?_last (m : List Byte) (j : Nat) :
    (padMessage m)[(padMessage m).length - 8 + j]? = (lengthField m.length)[j]? := by
  rw [← padMessage_getElem?_lengthField, length_padMessage]
  congr 1
  omega

/-- Settles O48: the padded length is 64 times the block count, from which the sizes follow. -/
theorem paddingSizes : Obligations.PaddingSizes := by
  unfold Obligations.PaddingSizes
  rintro m _ _ rfl rfl
  have blocks := length_padMessage_blocks m
  have count : (padMessage m).length / 64 = blocksFor m.length := by omega
  have positive : 1 ≤ blocksFor m.length := Nat.le_add_left 1 _
  rw [count]
  exact ⟨length_padMessage m, by omega, by omega, rfl, fun k => blocksFor_eq_iff m.length,
    padZeros_eq_zero_iff _, padZeros_eq_63_iff _, fun j _ => padMessage_getElem?_last m j,
    padMessage_getElem?_mark m, markBlock_cases _⟩

/-- Settles O49: a bit length below 2^35 reaches none of the first three bytes, and the fourth with three bits only. -/
theorem lengthFieldTopBytes : Obligations.LengthFieldTopBytes := by
  unfold Obligations.LengthFieldTopBytes
  intro len
  have small : 8 * len.toNat < 2 ^ 35 := by omega
  have modulus : 8 * len.toNat % 2 ^ 64 = 8 * len.toNat := Nat.mod_eq_of_lt (by omega)
  refine ⟨small, fun j hj => ?_, _, lengthField_getElem? _ (by omega), ?_⟩
  · have below : 8 * len.toNat < 256 ^ (7 - j) :=
      calc 8 * len.toNat < 256 ^ 5 := by omega
        _ ≤ 256 ^ (7 - j) := Nat.pow_le_pow_right (by omega) (by omega)
    rw [lengthField_getElem? _ (by omega), modulus, Nat.div_eq_of_lt below]
    rfl
  · rw [modulus, BitVec.toNat_ofNat]
    omega

/-! ## INIT and PAD -/

/-- Zero fits BLK whatever its width. -/
theorem State.setBLK_zero (s : State) : s.setBLK 0 = { s with BLK := 0 } := by
  rw [State.setBLK, Nat.zero_mod]

/-- Settles O20: but for the cut of BLK to its width, INIT writes what R122 says. -/
theorem initOutcome : Obligations.InitOutcome := by
  unfold Obligations.InitOutcome
  intro s
  simp only [exec, execInit, State.setBLK_zero]
  rfl

/-- PAD, for a length that START accepts: the padded message fits the buffer and its length the registers, so nothing is
cut off (R123). -/
theorem exec_pad {s : State} (accepted : s.MSG_LEN.toNat ≤ s.params.msgMaxBytes) :
    exec .pad s = .next { s with
      P := s.P.writeBytes 0 (padMessage s.message), PLEN := (padMessage s.message).length,
      NBLK := (padMessage s.message).length / 64, PHASE := 3, T := 0 } := by
  obtain ⟨blocks, buffer⟩ := padded_fits accepted
  have count : (padMessage s.message).length / 64 ≤ s.params.nblkMax := by
    rw [length_padMessage_blocks, length_message]
    omega
  simp only [exec, execPad, State.writePad, State.setPLEN, State.setNBLK, State.goto, List.take_of_length_le buffer,
    mod_plenW buffer, mod_blkW count]

/-- The bytes stored from index 0 up are read back. -/
theorem Memory.read_writeBytes_zero_of_lt (m : Memory) {xs : List Byte} {i : Nat} (h : i < xs.length) :
    (m.writeBytes 0 xs).read i = xs[i]? := by
  simp [Memory.read_writeBytes, h]

/-- Bytes stored from index 0 up leave the indexes above them alone. -/
theorem Memory.read_writeBytes_zero_of_le (m : Memory) {xs : List Byte} {i : Nat} (h : xs.length ≤ i) :
    (m.writeBytes 0 xs).read i = m.read i := by
  simp [Memory.read_writeBytes, h]

/-- Byte `j` of the message PAD reads. -/
theorem message_getElem? {s : State} {j : Nat} (h : j < s.MSG_LEN.toNat) : s.message[j]? = some (s.msgByte j) := by
  simp [State.message, h]

/-- Settles O21: PAD stores the padded message at index 0, whose bytes O47 gives. -/
theorem padOutcome : Obligations.PadOutcome := by
  unfold Obligations.PadOutcome
  rintro s _ z rfl accepted hz
  obtain ⟨length, message, mark, zeros, field, -⟩ := paddingBytes s.message _ z (length_message s).symm hz
  have stored : ∀ {j : Nat}, j < s.MSG_LEN.toNat + 9 + z →
      (s.P.writeBytes 0 (padMessage s.message)).read j = (padMessage s.message)[j]? :=
    fun h => Memory.read_writeBytes_zero_of_lt _ (length ▸ h)
  refine ⟨s.P.writeBytes 0 (padMessage s.message), length ▸ exec_pad accepted, fun j hj => ?message, ?mark,
    fun j above below => ?zeros, fun j hj => ?field, fun j above => ?frame⟩
  case message => rw [stored (by omega), message j hj, message_getElem? hj]
  case mark => rw [stored (by omega), mark]
  case zeros => rw [stored (by omega), zeros j above below]
  case field => rw [stored (by omega), field j hj]
  case frame => exact Memory.read_writeBytes_zero_of_le _ (length ▸ above)

end Sys2Proof.Machine
end

section
/-! The block iterator's micro-operations, one equation per case (R142, R143), and the sequencer's table (R144): the
positions each of them leads to. -/

namespace Sys2Proof.Machine

/-! ## IDLE and DONE -/

/-- In IDLE and DONE the engine's turn changes nothing (R143). -/
theorem exec_uop_of_resting {s : State} (resting : s.PHASE = PHASE_IDLE ∨ s.PHASE = PHASE_DONE) (u : State) :
    exec (decodeUop s.PHASE) u = .next u := by
  rcases resting with phase | phase <;> rw [phase] <;> rfl

/-- Settles O19: the engine's turn is an operation that answers the state it is given. -/
theorem idleAndDoneHaveNoStep : Obligations.IdleAndDoneHaveNoStep := by
  unfold Obligations.IdleAndDoneHaveNoStep
  intro s
  refine ⟨rfl, rfl, fun resting => ⟨fun silent => ?_, fun es engine => ?_⟩⟩
  · rw [step_of_silence silent, exec_uop_of_resting resting]
  · rw [step_of_engine engine, exec_uop_of_resting resting]
    rfl

/-! ## FOLD -/

/-- A count that fits BLK is held whole. -/
theorem State.setBLK_of_lt {s : State} {n : Nat} (fits : n < 2 ^ s.params.blkW) : s.setBLK n = { s with BLK := n } := by
  rw [State.setBLK, Nat.mod_eq_of_lt fits]

/-- FOLD with a block still to come (R142). -/
theorem exec_fold_of_more {s : State} (fits : s.BLK + 1 < 2 ^ s.params.blkW) (more : s.BLK + 1 < s.NBLK) :
    exec .fold s = .next { s with H := addWords s.H s.v, BLK := s.BLK + 1, PHASE := 3, T := 0 } := by
  have counted := State.setBLK_of_lt (s := s.setH (addWords s.H s.v)) fits
  simp only [exec, execFold, counted]
  exact if_pos more

/-- FOLD of the last block (R142). -/
theorem exec_fold_of_last {s : State} (fits : s.BLK + 1 < 2 ^ s.params.blkW) (last : ¬s.BLK + 1 < s.NBLK) :
    exec .fold s = .next { s with H := addWords s.H s.v, BLK := s.BLK + 1, PHASE := 8, T := 0 } := by
  have counted := State.setBLK_of_lt (s := s.setH (addWords s.H s.v)) fits
  simp only [exec, execFold, counted]
  exact if_neg last

/-- Settles O26: the two equations of FOLD, whose sum wraps word by word. -/
theorem foldOutcome : Obligations.FoldOutcome := by
  unfold Obligations.FoldOutcome
  intro s fits
  exact ⟨addWords s.H s.v, fun i => by simp, exec_fold_of_more fits, exec_fold_of_last fits⟩

/-! ## The micro-operations that count T -/

section
variable {s : State}

theorem exec_load_of_lt (more : s.T.toNat < 15) :
    exec .load s = .next ((s.writeSched s.blockWord).goto PHASE_LOAD (s.T + 1)) := if_pos more

theorem exec_load_of_last (last : s.T.toNat = 15) :
    exec .load s = .next ((s.writeSched s.blockWord).goto PHASE_EXPAND 16) := if_neg (by omega)

/-- The word EXPAND writes (R163). -/
def State.expandedWord (s : State) : Word :=
  scheduleSum (s.schedOperand 16) (s.schedOperand 15) (s.schedOperand 7) (s.schedOperand 2)

theorem exec_expand_of_lt (more : s.T.toNat < 63) :
    exec .expand s = .next ((s.writeSched s.expandedWord).goto PHASE_EXPAND (s.T + 1)) := if_pos more

theorem exec_expand_of_last (last : s.T.toNat = 63) :
    exec .expand s = .next ((s.writeSched s.expandedWord).goto PHASE_WINIT 0) := if_neg (by omega)

/-- The working variables ROUND writes (R186). -/
def State.roundedV (s : State) : Vector Word 8 := roundFn s.v (Rom.K[s.T.toNat]'s.T.isLt) s.schedWord

theorem exec_round_of_lt (more : s.T.toNat < 63) :
    exec .round s = .next ((s.setV s.roundedV).goto PHASE_ROUND (s.T + 1)) := if_pos more

theorem exec_round_of_last (last : s.T.toNat = 63) :
    exec .round s = .next ((s.setV s.roundedV).goto PHASE_FOLD 0) := if_neg (by omega)

end

/-! ## The other micro-operations -/

theorem exec_winit (s : State) : exec .winit s = .next ((s.setV s.H).goto PHASE_ROUND 0) := rfl

theorem exec_finalize (s : State) :
    exec .finalize s = .next ((s.setHEXBUF (Vector.ofFn (formatByte s.H))).goto PHASE_DONE 0) := rfl

/-! ## The table -/

/-- Below its last value T counts up without wrapping. -/
theorem toNat_T_add_one {t : BitVec 6} (h : t.toNat < 63) : (t + 1).toNat = t.toNat + 1 :=
  BitVec.toNat_add_of_lt (by simpa using by omega)

/-- Settles O30: each row is the equation of its micro-operation, at the phase that names it. FOLD's count fits BLK
since the invariant keeps it at most NBLK. -/
theorem transitionTable : Obligations.TransitionTable := by
  unfold Obligations.TransitionTable
  intro s inv
  obtain ⟨t, turn⟩ := exec_uop_answers inv.phase_legal
  have row {i : Instr} {u : State} (names : decodeUop s.PHASE = i) (e : exec i s = .next u) : t = u := by
    rw [names] at turn
    cases turn.symm.trans e
    rfl
  have fits (more : s.BLK + 1 ≤ s.NBLK) : s.BLK + 1 < 2 ^ s.params.blkW :=
    (more.trans inv.nblk_le).trans_lt (lt_two_pow_bitsFor _)
  refine ⟨t, turn, fun phase => ?init, fun phase => ?pad, fun phase more => ?load, fun phase last => ?loadLast,
    fun phase more => ?expand, fun phase last => ?expandLast, fun phase => ?winit, fun phase more => ?round,
    fun phase last => ?roundLast, fun phase more => ?fold, fun phase last => ?foldLast, fun phase => ?finalize,
    fun resting => ?resting, fun free accepted => ?start, ⟨_, rfl, rfl, rfl⟩⟩
  case init => rw [row (by rw [phase]; rfl) (initOutcome s)]; exact ⟨rfl, rfl, rfl⟩
  case pad =>
    have accepted := inv.len_ok (by simp [State.busy, phase])
    rw [row (by rw [phase]; rfl) (exec_pad accepted)]
    exact ⟨rfl, rfl, rfl⟩
  case load =>
    rw [row (by rw [phase]; rfl) (exec_load_of_lt more)]
    exact ⟨rfl, toNat_T_add_one (by omega), rfl⟩
  case loadLast => rw [row (by rw [phase]; rfl) (exec_load_of_last last)]; exact ⟨rfl, rfl, rfl⟩
  case expand =>
    rw [row (by rw [phase]; rfl) (exec_expand_of_lt more)]
    exact ⟨rfl, toNat_T_add_one more, rfl⟩
  case expandLast => rw [row (by rw [phase]; rfl) (exec_expand_of_last last)]; exact ⟨rfl, rfl, rfl⟩
  case winit => rw [row (by rw [phase]; rfl) (exec_winit s)]; exact ⟨rfl, rfl, rfl⟩
  case round =>
    rw [row (by rw [phase]; rfl) (exec_round_of_lt more)]
    exact ⟨rfl, toNat_T_add_one more, rfl⟩
  case roundLast => rw [row (by rw [phase]; rfl) (exec_round_of_last last)]; exact ⟨rfl, rfl, rfl⟩
  case fold =>
    rw [row (by rw [phase]; rfl) (exec_fold_of_more (fits more.le) more)]
    exact ⟨rfl, rfl, rfl⟩
  case foldLast =>
    rw [row (by rw [phase]; rfl) (exec_fold_of_last (fits last.le) (by omega))]
    exact ⟨rfl, rfl, last⟩
  case finalize => rw [row (by rw [phase]; rfl) (exec_finalize s)]; simp
  case resting =>
    cases turn.symm.trans (exec_uop_of_resting resting s)
    rfl
  case start =>
    refine ⟨_, rfl, ?_⟩
    rw [commandStart, free, if_neg Bool.false_ne_true, if_neg (by omega)]
    exact ⟨rfl, rfl⟩

end Sys2Proof.Machine
end

section
/-! One block (R140, R145): what the datapath holds after each of the block's 130 micro-operations. -/

namespace Sys2Proof.Machine

/-- The words of `W` below `n` are those of the block's schedule (R45). -/
def State.Scheduled (s : State) (block : List Byte) (n : Nat) : Prop :=
  ∀ i : Fin 64, i.val < n → s.W[i] = (schedule block).getD i 0

/-- The bytes LOAD reads at the current block are those of `block` (R140). -/
def State.HoldsBlock (s : State) (block : List Byte) : Prop :=
  ∀ j < 64, s.padByte (64 * s.BLK + j) = block.getD j 0

/-- The engine has made `n` of the micro-operations of `block`, from the chaining value in `H`; the next one may be
FOLD, the last. -/
inductive BlockStage (block : List Byte) (s : State) (n : Nat) : Prop
  | load (phase : s.PHASE = PHASE_LOAD) (index : s.T.toNat = n) (range : n < 16) (words : s.Scheduled block n)
  | expand (phase : s.PHASE = PHASE_EXPAND) (index : s.T.toNat = n) (range : 16 ≤ n) (words : s.Scheduled block n)
  | winit (phase : s.PHASE = PHASE_WINIT) (count : n = 64) (words : s.Scheduled block 64)
  | round (phase : s.PHASE = PHASE_ROUND) (count : n = 65 + s.T.toNat) (words : s.Scheduled block 64)
      (working : s.v = roundsUpTo (schedule block) s.H s.T.toNat)
  | fold (phase : s.PHASE = PHASE_FOLD) (count : n = 129) (words : s.Scheduled block 64)
      (working : s.v = roundsUpTo (schedule block) s.H 64)

/-- `t` is `s` but for what a block's micro-operations before FOLD write. -/
def SameOutsideBlock (s t : State) : Prop := t = { s with W := t.W, v := t.v, PHASE := t.PHASE, T := t.T }

theorem SameOutsideBlock.keeps {s t : State} (same : SameOutsideBlock s t) :
    t.H = s.H ∧ t.P = s.P ∧ t.NBLK = s.NBLK ∧ t.BLK = s.BLK := by
  rw [same]
  exact ⟨rfl, rfl, rfl, rfl⟩

variable {block : List Byte} {s : State} {n : Nat}

/-- A block has 130 micro-operations (R146). -/
theorem BlockStage.le (stage : BlockStage block s n) : n ≤ 129 := by
  have := s.T.isLt
  cases stage <;> omega

/-- A block is processed in the phases LOAD to FOLD. -/
theorem BlockStage.busy (stage : BlockStage block s n) : s.busy = true := by
  cases stage with
  | load phase => simp [State.busy, phase]
  | expand phase => simp [State.busy, phase]
  | winit phase => simp [State.busy, phase]
  | round phase => simp [State.busy, phase]
  | fold phase => simp [State.busy, phase]

/-- Before the last of them the engine is at FOLD, with all rounds made. -/
theorem BlockStage.fold_of_all (stage : BlockStage block s 129) :
    s.PHASE = PHASE_FOLD ∧ s.v = roundsUpTo (schedule block) s.H 64 := by
  have := s.T.isLt
  cases stage with
  | fold phase _ _ working => exact ⟨phase, working⟩
  | load _ _ range => omega
  | expand _ index => omega
  | winit _ count => omega
  | round _ count => omega

/-- The word LOAD assembles is the schedule's (R162, R164). -/
theorem blockWord_eq (holds : s.HoldsBlock block) (range : s.T.toNat < 16) :
    s.blockWord = (schedule block).getD s.T.toNat 0 := by
  rw [schedule_getD_low block range, ← holds _ (by omega), ← holds _ (by omega), ← holds _ (by omega),
    ← holds _ (by omega)]
  rfl

/-- EXPAND reads a schedule word written before (R163). -/
theorem schedOperand_eq (words : s.Scheduled block s.T.toNat) {k : Nat} (positive : 1 ≤ k)
    (within : k ≤ s.T.toNat) : s.schedOperand k = (schedule block).getD (s.T.toNat - k) 0 := by
  rw [State.schedOperand, if_pos within]
  exact words ⟨s.T.toNat - k, by omega⟩ (by simp only []; omega)

/-- The word EXPAND writes is the schedule's (R163, R164). -/
theorem expandedWord_eq (words : s.Scheduled block s.T.toNat) (range : 16 ≤ s.T.toNat) :
    s.expandedWord = (schedule block).getD s.T.toNat 0 := by
  have read {k : Nat} (positive : 1 ≤ k) (within : k ≤ 16) := schedOperand_eq words positive (within.trans range)
  rw [schedule_getD_high block range s.T.isLt, State.expandedWord, read (k := 16) (by omega) (by omega),
    read (k := 15) (by omega) (by omega), read (k := 7) (by omega) (by omega), read (k := 2) (by omega) (by omega)]

/-- Writing the schedule's word at `T` adds it to the words below `T`. -/
theorem scheduled_writeSched (words : s.Scheduled block s.T.toNat) {x : Word}
    (value : x = (schedule block).getD s.T.toNat 0) (p : BitVec 4) (t : BitVec 6) :
    ((s.writeSched x).goto p t).Scheduled block (s.T.toNat + 1) := by
  intro i below
  rw [State.goto_W, State.writeSched_W, Fin.getElem_fin, Vector.getElem_set]
  split
  · next new => rw [value, new]
  · next old => exact words i (by omega)

/-- ROUND makes one more of the reference's rounds (R185, R186). -/
theorem roundedV_eq (words : s.Scheduled block 64) {hs : Vector Word 8}
    (working : s.v = roundsUpTo (schedule block) hs s.T.toNat) :
    s.roundedV = roundsUpTo (schedule block) hs (s.T.toNat + 1) := by
  have constant : Rom.K.toList.getD s.T.toNat 0 = Rom.K[s.T.toNat]'s.T.isLt := by
    have := s.T.isLt
    simp [this]
  rw [roundsUpTo, ← working, ← words ⟨s.T.toNat, s.T.isLt⟩ s.T.isLt, constant]
  rfl

/-- The sum FOLD writes is the block's compression (R142, R145). -/
theorem addWords_eq_compress (working : s.v = roundsUpTo (schedule block) s.H 64) :
    addWords s.H s.v = compress s.H block := by
  rw [working, compress]

/-- A micro-operation of the block before FOLD makes the next stage (R162, R163, R184, R186). -/
theorem BlockStage.turn (holds : s.HoldsBlock block) (stage : BlockStage block s n) (more : n < 129) :
    ∃ t, exec (decodeUop s.PHASE) s = .next t ∧ BlockStage block t (n + 1) ∧ SameOutsideBlock s t := by
  cases stage with
  | load phase index range words =>
    subst index
    have words' := scheduled_writeSched words (blockWord_eq holds range)
    rw [phase]
    by_cases last : s.T.toNat = 15
    · exact ⟨_, exec_load_of_last last, .expand rfl (by simp [last]) (by omega) (words' _ _), rfl⟩
    · have index := toNat_T_add_one (t := s.T) (by omega)
      exact ⟨_, exec_load_of_lt (by omega), .load rfl index (by omega) (words' _ _), rfl⟩
  | expand phase index range words =>
    subst index
    have words' := scheduled_writeSched words (expandedWord_eq words range)
    rw [phase]
    by_cases last : s.T.toNat = 63
    · have all : s.T.toNat + 1 = 64 := by omega
      exact ⟨_, exec_expand_of_last last, .winit rfl (by omega) (all ▸ words' _ _), rfl⟩
    · have index := toNat_T_add_one (t := s.T) (by omega)
      exact ⟨_, exec_expand_of_lt (by omega), .expand rfl index (by omega) (words' _ _), rfl⟩
  | winit phase count words =>
    rw [phase]
    exact ⟨_, exec_winit s, .round rfl (by simp [count]) words rfl, rfl⟩
  | round phase count words working =>
    have working' := roundedV_eq words working
    rw [phase]
    by_cases last : s.T.toNat = 63
    · have all : s.T.toNat + 1 = 64 := by omega
      exact ⟨_, exec_round_of_last last, .fold rfl (by omega) words (all ▸ working'), rfl⟩
    · have index := toNat_T_add_one (t := s.T) (by omega)
      exact ⟨_, exec_round_of_lt (by omega), .round rfl (by simp only [State.goto_T]; omega) words
        (working'.trans (congrArg _ index.symm)), rfl⟩
  | fold phase count words working => omega

end Sys2Proof.Machine
end

section
/-! The whole computation (R146): the stages of the engine from an accepted START to DONE, whatever transactions come in
between, and that the digest depends on the message alone (R147). -/

namespace Sys2Proof.Machine

/-! ## The stages -/

/-- The micro-operations of the computation of a message (R146). -/
def totalTurns (m : List Byte) : Nat := 3 + 130 * blocksFor m.length

/-- PAD has written the padded message and its block count (R123). -/
structure HoldsPadded (m : List Byte) (s : State) : Prop where
  stored : ∀ j < (padMessage m).length, s.P.read j = (padMessage m)[j]?
  nblk : s.NBLK = blocksFor m.length

/-- Block `BLK` is under way, with `n` of its micro-operations made, from the chaining value of the blocks before it. -/
structure InBlock (m : List Byte) (s : State) (n : Nat) : Prop where
  padded : HoldsPadded m s
  more : s.BLK < s.NBLK
  chained : s.H = hashAfterBlocks (padMessage m) s.BLK
  stage : BlockStage (blockOf (padMessage m) s.BLK) s n

/-- All blocks are folded into `H`, the words of the digest. -/
structure AllFolded (m : List Byte) (s : State) : Prop where
  nblk : s.NBLK = blocksFor m.length
  blk : s.BLK = s.NBLK
  hash : s.H = sha256Words m

/-- The engine has made `k` micro-operations of the computation of `m` (R146). -/
inductive Stage (m : List Byte) (s : State) (k : Nat) : Prop
  | init (phase : s.PHASE = PHASE_INIT) (count : k = 0)
  | pad (phase : s.PHASE = PHASE_PAD) (seeded : s.H = Rom.IV) (blk : s.BLK = 0) (count : k = 1)
  | block (n : Nat) (inBlock : InBlock m s n) (count : k = 2 + 130 * s.BLK + n)
  | finalize (phase : s.PHASE = PHASE_FINALIZE) (folded : AllFolded m s) (count : k + 1 = totalTurns m)
  | done (phase : s.PHASE = PHASE_DONE) (t : s.T = 0) (folded : AllFolded m s)
      (hex : s.HEXBUF.toList = (hashText m).map asciiCode) (count : k = totalTurns m)

section
variable {m : List Byte} {s t : State} {n k : Nat}

/-- The padded message in `P` holds each of its blocks (R140). -/
theorem HoldsPadded.holdsBlock (padded : HoldsPadded m s) (more : s.BLK < s.NBLK) :
    s.HoldsBlock (blockOf (padMessage m) s.BLK) := by
  intro j below
  have inside : 64 * s.BLK + j < (padMessage m).length := by
    rw [length_padMessage_blocks, ← padded.nblk]
    omega
  rw [State.padByte, padded.stored _ inside]
  simp [blockOf, below, List.getElem?_eq_getElem inside]

/-- A block begins with nothing of its schedule written. -/
theorem BlockStage.start (block : List Byte) (phase : s.PHASE = PHASE_LOAD) (zero : s.T = 0) : BlockStage block s 0 :=
  .load phase (by simp [zero]) (by omega) fun _ below => absurd below (Nat.not_lt_zero _)

/-- What is under way in a block does not depend on the registers that its micro-operations before FOLD write. -/
theorem InBlock.of_sameOutside (inBlock : InBlock m s n) (same : SameOutsideBlock s t) {n' : Nat}
    (stage : BlockStage (blockOf (padMessage m) s.BLK) t n') : InBlock m t n' := by
  obtain ⟨hash, pad, nblk, blk⟩ := same.keeps
  obtain ⟨⟨stored, count⟩, more, chained, -⟩ := inBlock
  exact ⟨⟨pad ▸ stored, nblk.trans count⟩, by omega, by rw [hash, chained, blk], by rw [blk]; exact stage⟩

/-- PAD leaves the engine before the first block (R123). -/
theorem exec_pad_stage (message : s.message = m) (fits : s.MSG_LEN.toNat ≤ s.params.msgMaxBytes)
    (seeded : s.H = Rom.IV) (blk : s.BLK = 0) : ∃ t, exec .pad s = .next t ∧ Stage m t 2 := by
  subst message
  have blocks := length_padMessage_blocks s.message
  refine ⟨_, exec_pad fits, .block 0 ⟨⟨fun j => Memory.read_writeBytes_zero_of_lt _, ?_⟩, ?_, ?_, ?_⟩ ?_⟩
  · simp only []; omega
  · simp only [blk]; rw [blocks, blocksFor]; omega
  · simp only [blk]; exact seeded
  · exact .start _ rfl rfl
  · simp only [blk]

/-- At FOLD the sum of `H` and `v` is the chaining value after one block more (R141, R145). -/
theorem InBlock.addWords_eq (inBlock : InBlock m s 129) :
    s.PHASE = PHASE_FOLD ∧ addWords s.H s.v = hashAfterBlocks (padMessage m) (s.BLK + 1) := by
  obtain ⟨phase, working⟩ := inBlock.stage.fold_of_all
  refine ⟨phase, ?_⟩
  rw [addWords_eq_compress working, inBlock.chained, hashAfterBlocks]

/-- FOLD leaves the engine before the next block or, after the last, before FINALIZE (R142). -/
theorem exec_fold_stage (fits : s.NBLK ≤ s.params.nblkMax) (inBlock : InBlock m s 129) :
    ∃ t, exec .fold s = .next t ∧ Stage m t (2 + 130 * s.BLK + 130) := by
  obtain ⟨-, hash⟩ := inBlock.addWords_eq
  obtain ⟨padded, more, -, -⟩ := inBlock
  have width : s.BLK + 1 < 2 ^ s.params.blkW := (Nat.le_trans more fits).trans_lt (lt_two_pow_bitsFor _)
  by_cases another : s.BLK + 1 < s.NBLK
  · exact ⟨_, exec_fold_of_more width another,
      .block 0 ⟨⟨padded.stored, padded.nblk⟩, another, hash, .start _ rfl rfl⟩ (by simp only []; omega)⟩
  · have last : s.BLK + 1 = s.NBLK := by omega
    have blocks : (padMessage m).length / 64 = s.NBLK := by rw [length_padMessage_blocks, padded.nblk]; omega
    refine ⟨_, exec_fold_of_last width another, .finalize rfl ⟨padded.nblk, last, ?_⟩ ?_⟩
    · simp only []; rw [hash, last, sha256Words, blocks]
    · rw [totalTurns, ← padded.nblk]; omega

/-- FINALIZE ends the computation (R202). -/
theorem exec_finalize_stage (folded : AllFolded m s) :
    ∃ t, exec .finalize s = .next t ∧ Stage m t (totalTurns m) := by
  obtain ⟨nblk, blk, hash⟩ := folded
  refine ⟨_, exec_finalize s, .done (by simp) (by simp) ⟨by simpa, by simpa, by simpa⟩ ?_ rfl⟩
  rw [State.goto_HEXBUF, State.setHEXBUF_HEXBUF, formatBytes_toList, hash, hashText]

/-- Each micro-operation before the last makes the next stage. -/
theorem Stage.turn (message : s.message = m) (fits : s.MSG_LEN.toNat ≤ s.params.msgMaxBytes) (stage : Stage m s k)
    (more : k < totalTurns m) : ∃ t, exec (decodeUop s.PHASE) s = .next t ∧ Stage m t (k + 1) := by
  cases stage with
  | init phase count =>
    rw [phase]
    exact ⟨_, initOutcome s, .pad rfl rfl rfl (by rw [count])⟩
  | pad phase seeded blk count =>
    rw [phase, count]
    exact exec_pad_stage message fits seeded blk
  | block n inBlock count =>
    by_cases before : n < 129
    · obtain ⟨t, turn, stage, same⟩ := inBlock.stage.turn (inBlock.padded.holdsBlock inBlock.more) before
      obtain ⟨-, -, -, blk⟩ := same.keeps
      exact ⟨t, turn, .block (n + 1) (inBlock.of_sameOutside same stage) (by omega)⟩
    · obtain rfl : n = 129 := by have := inBlock.stage.le; omega
      obtain ⟨phase, -⟩ := inBlock.addWords_eq
      have blocks : s.NBLK ≤ s.params.nblkMax := by
        rw [inBlock.padded.nblk, ← message, length_message]
        exact (padded_fits fits).1
      rw [phase, count]
      exact exec_fold_stage blocks inBlock
  | finalize phase folded count =>
    rw [phase, count]
    exact exec_finalize_stage folded
  | done _ _ _ _ count => omega

/-- Before its last micro-operation a computation is busy (R31). -/
theorem Stage.busy (stage : Stage m s k) (more : k < totalTurns m) : s.busy = true := by
  cases stage with
  | init phase => simp [State.busy, phase]
  | pad phase => simp [State.busy, phase]
  | block n inBlock => exact inBlock.stage.busy
  | finalize phase => simp [State.busy, phase]
  | done _ _ _ _ count => omega

end

/-! ## Transactions and the events' order -/

/-- A transaction while busy that is no ABORT changes nothing but CMDERR and the response (R70, R215, R219). -/
theorem exec_bus_of_busy {s t : State} {record : BitVec 66} (busy : s.busy = true)
    (keeps : (Event.host record).abandons s.params = false) (h : exec (decodeBus record) s = .next t) :
    ∃ c r, t = { s with CMDERR := c, response := r } := by
  obtain ⟨s', r, e, effect⟩ := exec_bus_cases record s
  cases e.symm.trans h
  rcases effect with rfl | ⟨w, decoded, rfl⟩ | ⟨_, _, free, -⟩ | ⟨_, free, -⟩
  · exact ⟨_, _, rfl⟩
  · rcases performCommand_cases s w with e | e | ⟨free, -⟩ | ⟨free, -⟩ | ⟨abort, -⟩
    · exact ⟨_, _, by rw [e]⟩
    · exact ⟨_, _, by rw [e]; rfl⟩
    · simp [busy] at free
    · simp [busy] at free
    · simp [Event.abandons, decoded, abort] at keeps
  · simp [busy] at free
  · simp [busy] at free

/-- The stage does not depend on what the host sees change. -/
theorem Stage.of_hostState {m : List Byte} {s : State} {k : Nat} (stage : Stage m s k) (c : Bool) (r : Option Response)
    (es : List Event) : Stage m { s with CMDERR := c, response := r, events := es } k := by
  cases stage with
  | init phase count => exact .init phase count
  | pad phase seeded blk count => exact .pad phase seeded blk count
  | block n inBlock count =>
    obtain ⟨⟨stored, nblk⟩, more, chained, stage⟩ := inBlock
    refine .block n ⟨⟨stored, nblk⟩, more, chained, ?_⟩ count
    cases stage with
    | load phase index range words => exact .load phase index range words
    | expand phase index range words => exact .expand phase index range words
    | winit phase count words => exact .winit phase count words
    | round phase count words working => exact .round phase count words working
    | fold phase count words working => exact .fold phase count words working
  | finalize phase folded count => exact .finalize phase ⟨folded.nblk, folded.blk, folded.hash⟩ count
  | done phase t folded hex count => exact .done phase t ⟨folded.nblk, folded.blk, folded.hash⟩ hex count

/-- `t` holds the message of `s`, under the same parameters. -/
structure SameMessage (s t : State) : Prop where
  msg : t.MSG = s.MSG
  len : t.MSG_LEN = s.MSG_LEN
  params : t.params = s.params
  epoch : t.epoch = s.epoch

theorem SameMessage.trans {s t u : State} (st : SameMessage s t) (tu : SameMessage t u) : SameMessage s u :=
  ⟨tu.msg.trans st.msg, tu.len.trans st.len, tu.params.trans st.params, tu.epoch.trans st.epoch⟩

theorem SameMessage.message {s t : State} (same : SameMessage s t) : t.message = s.message :=
  message_congr same.msg same.len same.epoch

/-- `t` is `k` micro-operations into the computation of the message that `s` holds. -/
structure Computing (s : State) (k : Nat) (t : State) : Prop where
  same : SameMessage s t
  stage : Stage s.message t k

section
variable {s t : State} {record : BitVec 66} {e : Event} {es rest : List Event} {k : Nat}

theorem acceptsStart_iff (s : State) :
    s.acceptsStart = true ↔ s.busy = false ∧ s.MSG_LEN.toNat ≤ s.params.msgMaxBytes := by simp [State.acceptsStart]

/-- An accepted START begins the computation (R215). -/
theorem step_start (accepts : s.acceptsStart = true) (start : decodeBus record = .wr32 s.params.base 1)
    (events : s.events = .host record :: es) : ∃ t, step s = .next t ∧ Computing s 0 t ∧ t.events = es := by
  refine ⟨((s.setEvents es).clearErrors.goto PHASE_INIT 0).respondOk 0, ?_,
    ⟨⟨rfl, rfl, rfl, rfl⟩, .init rfl rfl⟩, rfl⟩
  rw [step_of_host events, start, ← performCommand_start (s := s.setEvents es) accepts]
  exact exec_wr32_base (s.setEvents es) 1

/-- An event that abandons nothing takes the computation on by one micro-operation if it is the engine's turn, and by
none if it is a transaction. -/
theorem Computing.step (fits : s.MSG_LEN.toNat ≤ s.params.msgMaxBytes) (computing : Computing s k t)
    (more : k < totalTurns s.message) (events : t.events = e :: es) (keeps : e.abandons s.params = false) :
    ∃ u, step t = .next u ∧ Computing s (k + [e].count .engine) u ∧ u.events = es := by
  obtain ⟨same, stage⟩ := computing
  cases e with
  | engine =>
    have fits' : t.MSG_LEN.toNat ≤ t.params.msgMaxBytes := by rw [same.len, same.params]; exact fits
    obtain ⟨u, turn, stage'⟩ := Stage.turn (s := t.setEvents es) same.message fits' (stage.of_hostState _ _ es) more
    obtain ⟨-, -, len, msg, params, -, events', epoch⟩ := exec_uop_frame (s := t.setEvents es) turn
    exact ⟨u, (step_of_engine events).trans turn, ⟨same.trans ⟨msg, len, params, epoch⟩, stage'⟩, events'⟩
  | host record =>
    obtain ⟨u, answers⟩ := exec_bus_answers (t.setEvents es) record
    have busy : (t.setEvents es).busy = true := stage.busy more
    obtain ⟨c, r, rfl⟩ := exec_bus_of_busy busy (same.params ▸ keeps :) answers
    exact ⟨_, (step_of_host events).trans answers,
      ⟨same.trans ⟨rfl, rfl, rfl, rfl⟩, stage.of_hostState c r es⟩, rfl⟩
  | reset => cases keeps

/-- Events that abandon nothing take the computation on by the engine's turns among them, as long as the computation
lasts. -/
theorem Computing.run (fits : s.MSG_LEN.toNat ≤ s.params.msgMaxBytes) (computing : Computing s k t)
    (events : t.events = es ++ rest) (keeps : ∀ e ∈ es, e.abandons s.params = false)
    (more : k + es.count .engine < totalTurns s.message) :
    ∃ u, run es.length t = .next u ∧ Computing s (k + es.count .engine) u ∧ u.events = rest := by
  induction es generalizing t k with
  | nil => exact ⟨t, rfl, computing, events⟩
  | cons e es ih =>
    have split : (e :: es).count .engine = [e].count .engine + es.count .engine := List.count_append (l₁ := [e])
    obtain ⟨keepsFirst, keepsRest⟩ := List.forall_mem_cons.mp keeps
    obtain ⟨u, first, computing', events'⟩ := computing.step fits (by omega) events keepsFirst
    obtain ⟨v, ran, computing'', events''⟩ := ih computing' events' keepsRest (by omega)
    exact ⟨v, (run_succ first _).trans ran, by rw [split, ← Nat.add_assoc]; exact computing'', events''⟩

end

/-! ## The theorems -/

/-- The whole computation: START, events that abandon nothing with all engine turns but one, and the last turn. Before
it the engine is busy. -/
theorem run_computes {s : State} {record : BitVec 66} {before after : List Event} (accepts : s.acceptsStart = true)
    (start : decodeBus record = .wr32 s.params.base 1)
    (events : s.events = .host record :: (before ++ .engine :: after))
    (keeps : ∀ e ∈ before, e.abandons s.params = false) (turns : before.count .engine + 1 = totalTurns s.message) :
    (∃ t, run (before.length + 2) s = .next t ∧ Computing s (totalTurns s.message) t ∧ t.events = after) ∧
    ∀ n ≤ before.length, ∃ u, run (n + 1) s = .next u ∧ u.busy = true := by
  obtain ⟨-, fits⟩ := (acceptsStart_iff s).mp accepts
  obtain ⟨t, first, computing, events'⟩ := step_start accepts start events
  constructor
  · obtain ⟨u, ran, computing', events''⟩ := computing.run fits events' keeps (by omega)
    obtain ⟨v, last, computing'', events'''⟩ := computing'.step fits (by omega) events'' rfl
    refine ⟨v, ?_, ?_, events'''⟩
    · rw [run_succ first, run_add ran 1, run_succ last, run_zero]
    · simpa [turns] using computing''
  · intro n within
    have fewer : (before.take n).count .engine ≤ before.count .engine := (List.take_sublist n before).count_le _
    have cut : t.events = before.take n ++ (before.drop n ++ .engine :: after) := by
      rw [events', ← List.append_assoc, List.take_append_drop]
    obtain ⟨u, ran, computing', -⟩ :=
      computing.run fits cut (fun e he => keeps e (List.mem_of_mem_take he)) (by omega)
    rw [List.length_take_of_le within] at ran
    exact ⟨u, (run_succ first n).trans ran, computing'.stage.busy (by omega)⟩

/-- At the end of a computation the engine is done, with the digest of the message (R146). -/
theorem Stage.result {m : List Byte} {s : State} (stage : Stage m s (totalTurns m)) :
    s.PHASE = PHASE_DONE ∧ s.T = 0 ∧ AllFolded m s ∧ s.HEXBUF.toList = (hashText m).map asciiCode := by
  cases stage with
  | done phase t folded hex _ => exact ⟨phase, t, folded, hex⟩
  | init _ count => rw [totalTurns] at count; omega
  | pad _ _ _ count => rw [totalTurns] at count; omega
  | block n inBlock count =>
    have := inBlock.stage.le
    have := inBlock.more
    rw [totalTurns, ← inBlock.padded.nblk] at count
    omega
  | finalize _ _ count => omega

/-- Settles O54: the run goes through the stages of the computation, one with each of the engine's turns. -/
theorem engineComputesHash : Obligations.EngineComputesHash := by
  unfold Obligations.EngineComputesHash
  intro s record before after free fits start events keeps turns
  rw [← length_message] at turns
  have accepts := (acceptsStart_iff s).mpr ⟨free, fits⟩
  obtain ⟨⟨t, ran, ⟨same, stage⟩, rest⟩, busy⟩ := run_computes accepts start events keeps turns
  obtain ⟨phase, zero, ⟨nblk, blk, hash⟩, hex⟩ := stage.result
  rw [length_message] at nblk
  refine ⟨⟨t, ran, phase, zero, hash, hex, nblk, blk, same.msg, same.len, rest⟩, fun n above within => ?_⟩
  obtain ⟨i, rfl⟩ := Nat.exists_eq_add_of_le' above
  exact busy i (by omega)

/-- Settles O57, from O54: both runs end with the digest of the one message. -/
theorem digestDependsOnMessageOnly : Obligations.DigestDependsOnMessageOnly := by
  unfold Obligations.DigestDependsOnMessageOnly
  intro s s' record record' before before' after after' free free' fits fits' message start start' events events' keeps
    keeps' turns turns'
  obtain ⟨⟨t, ran, phase, -, hash, hex, -⟩, -⟩ :=
    engineComputesHash s record before after free fits start events keeps turns
  obtain ⟨⟨t', ran', phase', -, hash', hex', -⟩, -⟩ :=
    engineComputesHash s' record' before' after' free' fits' start' events' keeps' turns'
  rw [← message] at hash' hex'
  exact ⟨t, t', ran, ran', (done_iff t).mpr phase, (done_iff t').mpr phase', hash.trans hash'.symm,
    Vector.toList_inj.mp (hex.trans hex'.symm)⟩

end Sys2Proof.Machine
end

section
/-! The schedule expander: the datapath's functions bit by bit (R160, R161, R180-R183), the recurrence of a block's
schedule (R164), and what LOAD and EXPAND do to the state (R162, R163). -/

namespace Sys2Proof.Machine

/-! ## The datapath bit by bit -/

section
variable {i : Nat}

/-- A shift brings in 0 from past the top (R11). -/
theorem ushiftRight_getLsbD (x : Word) (n i : Nat) :
    (x >>> n).getLsbD i = (decide (i + n < 32) && x.getLsbD (i + n)) := by
  rw [BitVec.getLsbD_ushiftRight, Nat.add_comm n i]
  by_cases within : i + n < 32
  · simp [within]
  · rw [BitVec.getLsbD_of_ge x _ (by omega), Bool.and_false]

theorem sigma0_getLsbD (x : Word) (h : i < 32) : (sigma0 x).getLsbD i =
    ((x.getLsbD ((i + 7) % 32) ^^ x.getLsbD ((i + 18) % 32)) ^^ (decide (i + 3 < 32) && x.getLsbD (i + 3))) := by
  simp only [sigma0, BitVec.getLsbD_xor, rotr_getLsbD x _ h, ushiftRight_getLsbD]

theorem sigma1_getLsbD (x : Word) (h : i < 32) : (sigma1 x).getLsbD i =
    ((x.getLsbD ((i + 17) % 32) ^^ x.getLsbD ((i + 19) % 32)) ^^ (decide (i + 10 < 32) && x.getLsbD (i + 10))) := by
  simp only [sigma1, BitVec.getLsbD_xor, rotr_getLsbD x _ h, ushiftRight_getLsbD]

theorem bigSigma0_getLsbD (x : Word) (h : i < 32) : (bigSigma0 x).getLsbD i =
    ((x.getLsbD ((i + 2) % 32) ^^ x.getLsbD ((i + 13) % 32)) ^^ x.getLsbD ((i + 22) % 32)) := by
  simp only [bigSigma0, BitVec.getLsbD_xor, rotr_getLsbD x _ h]

theorem bigSigma1_getLsbD (x : Word) (h : i < 32) : (bigSigma1 x).getLsbD i =
    ((x.getLsbD ((i + 6) % 32) ^^ x.getLsbD ((i + 11) % 32)) ^^ x.getLsbD ((i + 25) % 32)) := by
  simp only [bigSigma1, BitVec.getLsbD_xor, rotr_getLsbD x _ h]

/-- Ch selects (R182). -/
theorem ch_getLsbD (x y z : Word) (h : i < 32) :
    (ch x y z).getLsbD i = if x.getLsbD i then y.getLsbD i else z.getLsbD i := by
  simp only [ch, BitVec.getLsbD_xor, BitVec.getLsbD_and, BitVec.getLsbD_not, h, decide_true, Bool.true_and]
  cases x.getLsbD i <;> simp

/-- Maj is the majority of three bits (R183). -/
theorem maj_getLsbD (x y z : Word) (i : Nat) :
    (maj x y z).getLsbD i = decide (2 ≤ (x.getLsbD i).toNat + (y.getLsbD i).toNat + (z.getLsbD i).toNat) := by
  have majority : ∀ a b c : Bool, (((a && b) ^^ (a && c)) ^^ (b && c)) = decide (2 ≤ a.toNat + b.toNat + c.toNat) := by
    decide
  simp only [maj, BitVec.getLsbD_xor, BitVec.getLsbD_and, majority]

end

/-- Settles O45: a rotation reads its bit counted round, a shift 0 past the top; Ch and Maj by the cases of the bits. -/
theorem datapathBitByBit : Obligations.DatapathBitByBit := by
  unfold Obligations.DatapathBitByBit
  intro x y z i h
  exact ⟨sigma0_getLsbD x h, sigma1_getLsbD x h, bigSigma0_getLsbD x h, bigSigma1_getLsbD x h, ch_getLsbD x y z h,
    maj_getLsbD x y z i⟩

/-! ## The schedule of a block -/

theorem schedule_getElem? (b : List Byte) {t : Nat} (h : t < 64) :
    (schedule b)[t]? = some ((schedule b).getD t 0) := by
  simp [h]

/-- Settles O50: the two cases of the schedule's words, read at the bytes and words that are there. -/
theorem scheduleRecurrence : Obligations.ScheduleRecurrence := by
  unfold Obligations.ScheduleRecurrence
  intro b _
  refine ⟨length_schedule b, fun t low b0 b1 b2 b3 h0 h1 h2 h3 => ?low,
    fun t high within w16 w15 w7 w2 h16 h15 h7 h2 => ?high⟩
  case low =>
    rw [schedule_getElem? b (by omega), schedule_getD_low b low]
    simp only [List.getD_eq_getElem?_getD, h0, h1, h2, h3, Option.getD_some]
  case high =>
    rw [schedule_getElem? b within, schedule_getD_high b high within]
    simp only [List.getD_eq_getElem?_getD, h16, h15, h7, h2, Option.getD_some, scheduleSum]

/-! ## LOAD and EXPAND -/

/-- LOAD from the last index on (R162's else branch; log 21). -/
theorem exec_load_of_not_lt {s : State} (last : ¬s.T.toNat < 15) :
    exec .load s = .next ((s.writeSched s.blockWord).goto PHASE_EXPAND 16) := if_neg last

/-- `W[T] <- x` leaves the other words. -/
theorem writeSched_getElem_other (s : State) (x : Word) {i : Fin 64} (other : i.val ≠ s.T.toNat) :
    (s.writeSched x).W[i] = s.W[i] :=
  Vector.getElem_set_ne s.T.isLt i.isLt other.symm

/-- `W[T] <- x` writes `x`. -/
theorem writeSched_getElem_same (s : State) (x : Word) : (s.writeSched x).W[s.T.toNat]'s.T.isLt = x :=
  Vector.getElem_set_self s.T.isLt

/-- Settles O22: the word LOAD writes is the big-endian sum of its four bytes (R13). -/
theorem loadOutcome : Obligations.LoadOutcome := by
  unfold Obligations.LoadOutcome
  intro s
  refine ⟨(s.writeSched s.blockWord).W, fun i => ⟨writeSched_getElem_other s _, fun here => ?word⟩,
    exec_load_of_lt, exec_load_of_not_lt⟩
  case word =>
    obtain rfl : i = ⟨s.T.toNat, s.T.isLt⟩ := Fin.ext here
    exact (congrArg BitVec.toNat (writeSched_getElem_same s _)).trans (be32_toNat _ _ _ _)

/-- EXPAND reads the word `k` below `T` (R163). -/
theorem schedOperand_of_le {s : State} {k : Nat} (within : k ≤ s.T.toNat) :
    s.schedOperand k = s.W[s.T.toNat - k]'(by have := s.T.isLt; omega) := dif_pos within

/-- The word EXPAND writes, for the indexes it is given (R163, with R160 and R161 written out). -/
theorem expandedWord_eq_sum {s : State} (range : 16 ≤ s.T.toNat) :
    s.expandedWord = s.W[s.T.toNat - 16]
      + ((s.W[s.T.toNat - 15]).rotateRight 7 ^^^ (s.W[s.T.toNat - 15]).rotateRight 18 ^^^ (s.W[s.T.toNat - 15] >>> 3))
      + s.W[s.T.toNat - 7]
      + ((s.W[s.T.toNat - 2]).rotateRight 17 ^^^ (s.W[s.T.toNat - 2]).rotateRight 19
        ^^^ (s.W[s.T.toNat - 2] >>> 10)) := by
  simp only [State.expandedWord, scheduleSum, sigma0, sigma1, rotr_eq_rotateRight,
    schedOperand_of_le range, schedOperand_of_le (show 15 ≤ s.T.toNat by omega),
    schedOperand_of_le (show 7 ≤ s.T.toNat by omega), schedOperand_of_le (show 2 ≤ s.T.toNat by omega)]

/-- Settles O23: from index 16 on the four words EXPAND reads are there. -/
theorem expandOutcome : Obligations.ExpandOutcome := by
  unfold Obligations.ExpandOutcome
  rintro s _ range - rfl
  exact ⟨(s.writeSched s.expandedWord).W, fun i => writeSched_getElem_other s _,
    (writeSched_getElem_same s _).trans (expandedWord_eq_sum range), exec_expand_of_lt, exec_expand_of_last⟩

end Sys2Proof.Machine
end

section
/-! The round engine's micro-operations (43_compressor.md): WINIT (R184) and ROUND (R186), whose variables are written
out with the functions of R180-R183. -/

namespace Sys2Proof.Machine

/-- Settles O24: the equation of WINIT, with its two writes made. -/
theorem winitOutcome : Obligations.WinitOutcome := by
  unfold Obligations.WinitOutcome
  exact exec_winit

/-- Σ0 by the library's rotation (R180). -/
theorem bigSigma0_eq_rotateRight (x : Word) :
    bigSigma0 x = x.rotateRight 2 ^^^ x.rotateRight 13 ^^^ x.rotateRight 22 := by
  simp only [bigSigma0, rotr_eq_rotateRight]

/-- Σ1 by the library's rotation (R181). -/
theorem bigSigma1_eq_rotateRight (x : Word) :
    bigSigma1 x = x.rotateRight 6 ^^^ x.rotateRight 11 ^^^ x.rotateRight 25 := by
  simp only [bigSigma1, rotr_eq_rotateRight]

/-- The variables ROUND writes are the round function's, by name, from `K[T]` and `W[T]` (R185, R186). -/
theorem roundedV_of_v_eq {s : State} {a b c d e f g h temp1 temp2 : Word} (working : s.v = #v[a, b, c, d, e, f, g, h])
    (sum1 : temp1 = h + bigSigma1 e + ch e f g + Rom.K[s.T.toNat]'s.T.isLt + s.W[s.T.toNat]'s.T.isLt)
    (sum2 : temp2 = bigSigma0 a + maj a b c) :
    s.roundedV = #v[temp1 + temp2, a, b, c, d + temp1, e, f, g] := by
  rw [State.roundedV, working, roundFn_mk, State.schedWord, sum1, sum2]

/-- Settles O25: both outcomes write the variables of the round function, whose Σ0 and Σ1 turn by the library's
rotation. -/
theorem roundOutcome : Obligations.RoundOutcome := by
  unfold Obligations.RoundOutcome
  rintro s a b c d e f g h temp1 temp2 _ _ rfl working sum1 sum2
  rw [← bigSigma1_eq_rotateRight] at sum1
  rw [← bigSigma0_eq_rotateRight] at sum2
  rw [← roundedV_of_v_eq working sum1 sum2]
  exact ⟨exec_round_of_lt, exec_round_of_last⟩

end Sys2Proof.Machine
end

section
/-! The formatter's micro-operation, FINALIZE (44_formatter.md R202), and the codes of the sixteen digits (R200). -/

namespace Sys2Proof.Machine

/-- The digits' codes, in the two runs of ASCII (R200). -/
theorem toNat_asciiCode_hexDigit : ∀ n : Fin 16,
    (asciiCode (hexDigit n)).toNat = if n.val ≤ 9 then 0x30 + n.val else 0x61 + (n.val - 10) := by decide

/-- The byte FINALIZE writes at `k`, as a number (R200, R201). -/
theorem toNat_formatByte (hs : Vector Word 8) (k : Fin 64) {n : Nat}
    (nibble : n = (hs[k.val / 8]'(by omega)).toNat / 16 ^ (7 - k.val % 8) % 16) :
    (formatByte hs k).toNat = if n ≤ 9 then 0x30 + n else 0x61 + (n - 10) := by
  rw [formatByte_eq, ← nibble]
  exact toNat_asciiCode_hexDigit ⟨n, by omega⟩

/-- FINALIZE's two writes, made. The bytes are a variable here: with `formatByte` in their place, comparing
the two states would evaluate it. -/
theorem setHEXBUF_goto_done (s : State) (bytes : Vector Byte 64) :
    (s.setHEXBUF bytes).goto PHASE_DONE 0 = { s with HEXBUF := bytes, PHASE := 9, T := 0 } := rfl

/-- Settles O27: the bytes of FINALIZE's equation are the codes of `format(H)`, each the code of its nibble's digit. -/
theorem finalizeOutcome : Obligations.FinalizeOutcome := by
  unfold Obligations.FinalizeOutcome
  intro s
  refine ⟨Vector.ofFn (formatByte s.H), ?turn, formatBytes_toList s.H, fun k => ⟨_, rfl, ?byte⟩⟩
  case turn => rw [exec_finalize, setHEXBUF_goto_done]
  case byte =>
    rw [Fin.getElem_fin, Vector.getElem_ofFn]
    exact toNat_formatByte s.H k rfl

end Sys2Proof.Machine
end

section
/-! The host interface (45_host_interface.md): the transactions the map admits, register by register (R211, R212, R218,
R219), and the commands (R213-R217). -/

namespace Sys2Proof.Machine

/-! ## The places of the map -/

section
variable (p : Params)

@[simp] theorem locate_hostAddr_status : locate p (hostAddr p 0x0004) = .status :=
  locate_status (offsetOf_hostAddr p (by omega))

@[simp] theorem locate_hostAddr_msgLen : locate p (hostAddr p 0x0008) = .msgLen :=
  (locate_eq_msgLen_iff p _).mpr rfl

@[simp] theorem locate_hostAddr_digest (i : Fin 8) : locate p (hostAddr p (0x0010 + 4 * i)) = .digest i :=
  locate_digest i (offsetOf_hostAddr p (by omega))

@[simp] theorem locate_hostAddr_hex (k : Fin 64) : locate p (hostAddr p (0x0040 + k)) = .hex k :=
  locate_hex k (offsetOf_hostAddr p (by omega))

end

/-- Within R5's bound the MSG window does not wrap round the address space. -/
theorem locate_msgAddr {p : Params} (bound : p.wf) {j : Nat} (within : j < p.msgMaxBytes) :
    locate p (msgAddr p j) = .msg j :=
  locate_msg within (offsetOf_hostAddr p (by have : p.msgMaxBytes ≤ 0xFFFF0000 := bound; omega))

/-! ## What the transactions look at -/

theorem busy_iff (s : State) : s.busy = true ↔ 1 ≤ s.PHASE.toNat ∧ s.PHASE.toNat ≤ 8 := decide_eq_true_iff

theorem not_busy_iff (s : State) : s.busy = false ↔ ¬(1 ≤ s.PHASE.toNat ∧ s.PHASE.toNat ≤ 8) := decide_eq_false_iff_not

theorem ite_eq_toNat_decide_mul (c : Prop) [Decidable c] (n : Nat) : (if c then n else 0) = (decide c).toNat * n := by
  split
  · next holds => simp [holds]
  · next fails => simp [fails]

/-- STATUS as the sum of its fields at their places (R40). -/
theorem statusWord_eq (s : State) : s.statusWord =
    BitVec.ofNat 32 (s.T.toNat * 2 ^ 8 + s.PHASE.toNat * 2 ^ 4 + s.LENERR.toNat * 2 ^ 3 + s.CMDERR.toNat * 2 ^ 2
      + (if s.PHASE = 9 then 2 else 0) + (if 1 ≤ s.PHASE.toNat ∧ s.PHASE.toNat ≤ 8 then 1 else 0)) := by
  have done : (if s.PHASE = 9 then 2 else 0) = s.done.toNat * 2 := ite_eq_toNat_decide_mul _ _
  have busy : (if 1 ≤ s.PHASE.toNat ∧ s.PHASE.toNat ≤ 8 then 1 else 0) = s.busy.toNat * 1 := ite_eq_toNat_decide_mul _ _
  rw [done, busy]
  apply BitVec.eq_of_toNat_eq
  simp only [State.statusWord, BitVec.toNat_setWidth, BitVec.toNat_ofNat, BitVec.toNat_append]
  simp only [shiftLeft_or_eq_add _ (BitVec.isLt _)]
  simp only [BitVec.toNat_ofBool]
  congr 1
  omega

/-- The lowest byte of the write data, as a number (R98). -/
theorem byteLane_eq (d : BitVec 32) : byteLane d = BitVec.ofNat 8 (d.toNat % 256) := by
  apply BitVec.eq_of_toNat_eq
  simp [byteLane, BitVec.extractLsb'_toNat]

theorem msgByte_of_read {s : State} {j : Nat} {b : Byte} (written : s.MSG.read j = some b) : s.msgByte j = b := by
  simp [State.msgByte, written]

/-! ## Reads -/

/-- RD32 of a DIGEST word at any phase (R211). -/
theorem exec_rd32_digestAddr (s : State) (i : Fin 8) (d : BitVec 32) :
    exec (.rd32 (hostAddr s.params (0x0010 + 4 * i)) d) s =
      .next { s with response := some ⟨.ok, if s.PHASE = 9 then s.H[i] else 0⟩ } := by
  simp only [exec, execRd32, locate_hostAddr_digest, done_iff]
  rfl

/-- RD8 of a HEX byte at any phase (R218). -/
theorem exec_rd8_hexAddr (s : State) (k : Fin 64) (d : BitVec 32) :
    exec (.rd8 (hostAddr s.params (0x0040 + k)) d) s =
      .next { s with response := some ⟨.ok, if s.PHASE = 9 then (s.HEXBUF[k]).setWidth 32 else 0⟩ } := by
  simp only [exec, execRd8, locate_hostAddr_hex, done_iff, apply_ite (BitVec.setWidth 32)]
  rfl

/-- RD8 of a MSG byte (R218). -/
theorem exec_rd8_msgAddr {s : State} (bound : s.params.wf) {j : Nat} (within : j < s.params.msgMaxBytes)
    (d : BitVec 32) : exec (.rd8 (msgAddr s.params j) d) s =
      .next { s with response := some ⟨.ok, (s.msgByte j).setWidth 32⟩ } := by
  simp only [exec, execRd8, locate_msgAddr bound within]
  rfl

/-- Settles O7: each register is found at its address, and STATUS is the sum of its fields. -/
theorem rd32Values : Obligations.Rd32Values := by
  unfold Obligations.Rd32Values
  intro s d
  refine ⟨?ctrl, ?status, ?msgLen, fun i => exec_rd32_digestAddr s i d⟩
  case ctrl =>
    simp only [exec, execRd32, hostAddr_zero, locate_base]
    rfl
  case status =>
    simp only [exec, execRd32, locate_hostAddr_status, ← statusWord_eq]
    rfl
  case msgLen =>
    simp only [exec, execRd32, locate_hostAddr_msgLen]
    rfl

/-- Settles O8: each byte is found at its address, a MSG byte as written or else as the free value. -/
theorem rd8Values : Obligations.Rd8Values := by
  unfold Obligations.Rd8Values
  intro s d
  refine ⟨fun k => exec_rd8_hexAddr s k d, fun bound j within => ⟨fun b written => ?_, fun _ => ?_⟩⟩
  · rw [exec_rd8_msgAddr bound within, msgByte_of_read written]
  · exact ⟨s.msgByte j, exec_rd8_msgAddr bound within d⟩

/-! ## Writes -/

/-- A command is its CTRL write's effect with the OK response (R212, R213). -/
theorem exec_decodeCmd (s : State) (w : BitVec 32) :
    exec (decodeCmd w) s = .next ((performCommand s w).respondOk 0) := by
  unfold decodeCmd performCommand
  cases decodeCommand w <;> rfl

/-- WR32 to MSG_LEN (R212). -/
theorem exec_wr32_msgLenAddr (s : State) (d : BitVec 32) : exec (.wr32 (hostAddr s.params 0x0008) d) s =
    .next ((if s.busy then s else s.setMSG_LEN d).respondOk 0) := by
  simp only [exec, execWr32, locate_hostAddr_msgLen]

/-- WR8 to a MSG byte (R219). -/
theorem exec_wr8_msgAddr {s : State} (bound : s.params.wf) {j : Nat} (within : j < s.params.msgMaxBytes)
    (d : BitVec 32) : exec (.wr8 (msgAddr s.params j) d) s =
      .next ((if s.busy then s else s.writeMsg j (byteLane d)).respondOk 0) := by
  simp only [exec, execWr8, locate_msgAddr bound within]

/-- Settles O9: CTRL performs the decoded command, MSG_LEN is written while not busy, and the others are read-only. -/
theorem wr32Effects : Obligations.Wr32Effects := by
  unfold Obligations.Wr32Effects
  intro s d
  refine ⟨?ctrl, ?status, fun free => ?free, fun busy => ?busy, fun i => ?digest⟩
  case ctrl => rw [hostAddr_zero, exec_wr32_base, exec_decodeCmd]
  case status =>
    simp only [exec, execWr32, locate_hostAddr_status]
    rfl
  case free =>
    rw [exec_wr32_msgLenAddr, (not_busy_iff s).mpr free]
    rfl
  case busy =>
    rw [exec_wr32_msgLenAddr, (busy_iff s).mpr busy]
    rfl
  case digest =>
    simp only [exec, execWr32, locate_hostAddr_digest]
    rfl

/-- Settles O10: while not busy the byte store is written at the addressed byte, whose read and frame are its laws. -/
theorem wr8Effects : Obligations.Wr8Effects := by
  unfold Obligations.Wr8Effects
  intro s d
  refine ⟨fun k => ?hex, fun bound j within => ⟨fun busy => ?busy, fun free => ?free⟩⟩
  case hex =>
    simp only [exec, execWr8, locate_hostAddr_hex]
    rfl
  case busy =>
    rw [exec_wr8_msgAddr bound within, (busy_iff s).mpr busy]
    rfl
  case free =>
    refine ⟨s.MSG.write j (byteLane d), ?_, ?_, fun a => Memory.read_write_other _ _⟩
    · rw [exec_wr8_msgAddr bound within, (not_busy_iff s).mpr free]
      rfl
    · rw [Memory.read_write_same, byteLane_eq]

/-! ## Commands -/

section
variable {s : State}

theorem commandStart_of_busy (busy : s.busy = true) : commandStart s = s.setCMDERR := if_pos busy

theorem commandStart_of_long (free : s.busy = false) (long : s.params.msgMaxBytes < s.MSG_LEN.toNat) :
    commandStart s = s.setLENERR := by
  rw [commandStart, free, if_neg Bool.false_ne_true, if_pos long]

theorem commandStart_of_fits (free : s.busy = false) (fits : s.MSG_LEN.toNat ≤ s.params.msgMaxBytes) :
    commandStart s = s.clearErrors.goto PHASE_INIT 0 := by
  rw [commandStart, free, if_neg Bool.false_ne_true, if_neg (Nat.not_lt.mpr fits)]

end

theorem exec_start (s : State) : exec .start s = .next ((commandStart s).respondOk 0) := rfl

/-- Settles O14, outcome by outcome of the command. -/
theorem startOutcomes : Obligations.StartOutcomes := by
  unfold Obligations.StartOutcomes
  intro s
  refine ⟨fun busy => ?busy, fun free long => ?long, fun free fits => ?accepted⟩ <;> rw [exec_start]
  case busy => rw [commandStart_of_busy ((busy_iff s).mpr busy)]; rfl
  case long => rw [commandStart_of_long ((not_busy_iff s).mpr free) long]; rfl
  case accepted => rw [commandStart_of_fits ((not_busy_iff s).mpr free) fits]; rfl

/-- Settles O13: the command is the identity. -/
theorem nopChangesNothing : Obligations.NopChangesNothing := by
  unfold Obligations.NopChangesNothing
  exact fun _ => rfl

/-- Settles O15: the flags' update and the new position, made. -/
theorem abortOutcome : Obligations.AbortOutcome := by
  unfold Obligations.AbortOutcome
  exact fun _ => rfl

/-- Settles O16: the flag's update, made. -/
theorem illegalOutcome : Obligations.IllegalOutcome := by
  unfold Obligations.IllegalOutcome
  exact fun _ _ => rfl

end Sys2Proof.Machine
end

section
/-! What the host cannot read (R222): a transaction answers from what `SameToHost` says two states share, and keeps it
shared. -/

namespace Sys2Proof.Machine

namespace SameToHost
variable {s s' : State} (same : SameToHost s s')
include same

theorem busy : s.busy = s'.busy := by simp only [State.busy, same.phase]

theorem done : s.done = s'.done := by simp only [State.done, same.phase]

theorem statusWord : s.statusWord = s'.statusWord := by
  simp only [State.statusWord, same.t, same.phase, same.lenerr, same.cmderr, same.done, same.busy]

theorem msgByte (j : Nat) : s.msgByte j = s'.msgByte j := by simp only [State.msgByte, same.msg, same.epoch]

/-- `H` is shared where DIGEST shows it. -/
theorem digest (i : Fin 8) : (if s.done then s.H[i] else 0) = if s'.done then s'.H[i] else 0 := by
  rw [← same.done]
  split
  · next shown => rw [same.hash shown]
  · rfl

/-- `HEXBUF` is shared where HEX shows it. -/
theorem hexByte (k : Fin 64) : (if s.done then s.HEXBUF[k] else 0) = if s'.done then s'.HEXBUF[k] else 0 := by
  rw [← same.done]
  split
  · next shown => rw [same.hex shown]
  · rfl

/-! The updates a transaction makes. -/

theorem respondOk {d d' : Word} (data : d = d') : SameToHost (s.respondOk d) (s'.respondOk d') :=
  { same with response := by simp [data] }

theorem respondBusErr : SameToHost s.respondBusErr s'.respondBusErr := { same with response := rfl }

theorem writeMsg (j : Nat) (x : Byte) : SameToHost (s.writeMsg j x) (s'.writeMsg j x) :=
  { same with msg := by simp [same.msg] }

theorem setMSG_LEN (n : BitVec 32) : SameToHost (s.setMSG_LEN n) (s'.setMSG_LEN n) := { same with msgLen := rfl }

theorem setCMDERR : SameToHost s.setCMDERR s'.setCMDERR := { same with cmderr := rfl }

theorem setLENERR : SameToHost s.setLENERR s'.setLENERR := { same with lenerr := rfl }

theorem clearErrors : SameToHost s.clearErrors s'.clearErrors := { same with cmderr := rfl, lenerr := rfl }

/-- A position outside DONE shows neither `H` nor `HEXBUF`. -/
theorem goto {p : BitVec 4} (hides : p ≠ PHASE_DONE) (t : BitVec 6) : SameToHost (s.goto p t) (s'.goto p t) :=
  { same with
    phase := rfl
    t := rfl
    hash := fun shown => absurd ((done_iff _).mp shown) hides
    hex := fun shown => absurd ((done_iff _).mp shown) hides }

/-- An update that busy drops is dropped in both states or in neither. -/
theorem unlessBusy {t t' : State} (updated : SameToHost t t') :
    SameToHost (if s.busy then s else t) (if s'.busy then s' else t') := by
  rw [← same.busy]
  split
  · exact same
  · exact updated

/-- START has the same outcome in both states: it looks at busy, the length and the parameters. -/
theorem commandStart : SameToHost (commandStart s) (commandStart s') := by
  unfold Machine.commandStart
  rw [← same.busy, ← same.msgLen, ← same.params]
  split
  · exact same.setCMDERR
  · split
    · exact same.setLENERR
    · exact same.clearErrors.goto (by decide) 0

theorem performCommand (w : BitVec 32) : SameToHost (performCommand s w) (performCommand s' w) := by
  unfold Machine.performCommand
  cases decodeCommand w
  case nop => exact same
  case start => exact same.commandStart
  case abort => exact same.clearErrors.goto (by decide) 0
  case illegal => exact same.setCMDERR

end SameToHost

/-- Two outcomes that a host cannot tell apart. -/
def AnswersAlike (o o' : Host.Outcome State Fault Refusal) : Prop :=
  ∃ t t', o = .next t ∧ o' = .next t' ∧ SameToHost t t'

theorem SameToHost.answersAlike {t t' : State} (same : SameToHost t t') : AnswersAlike (.next t) (.next t') :=
  ⟨t, t', rfl, rfl, same⟩

/-! ## The four kinds of transactions -/

section
variable {s s' : State} (same : SameToHost s s') (addr d : BitVec 32)
include same

theorem execRd8_alike : AnswersAlike (execRd8 addr d s) (execRd8 addr d s') := by
  unfold execRd8
  rw [← same.params]
  cases locate s.params addr
  case hex k => exact (same.respondOk (congrArg _ (same.hexByte k))).answersAlike
  case msg j => exact (same.respondOk (congrArg _ (same.msgByte j))).answersAlike
  all_goals exact same.respondBusErr.answersAlike

theorem execWr8_alike : AnswersAlike (execWr8 addr d s) (execWr8 addr d s') := by
  unfold execWr8
  rw [← same.params]
  cases locate s.params addr
  case hex => exact (same.respondOk rfl).answersAlike
  case msg j => exact ((same.unlessBusy (same.writeMsg j _)).respondOk rfl).answersAlike
  all_goals exact same.respondBusErr.answersAlike

theorem execRd32_alike : AnswersAlike (execRd32 addr d s) (execRd32 addr d s') := by
  unfold execRd32
  rw [← same.params]
  cases locate s.params addr
  case ctrl => exact (same.respondOk rfl).answersAlike
  case status => exact (same.respondOk same.statusWord).answersAlike
  case msgLen => exact (same.respondOk same.msgLen).answersAlike
  case digest i => exact (same.respondOk (same.digest i)).answersAlike
  all_goals exact same.respondBusErr.answersAlike

theorem execWr32_alike : AnswersAlike (execWr32 addr d s) (execWr32 addr d s') := by
  unfold execWr32
  rw [← same.params]
  cases locate s.params addr
  case ctrl => exact ((same.performCommand d).respondOk rfl).answersAlike
  case msgLen => exact ((same.unlessBusy (same.setMSG_LEN d)).respondOk rfl).answersAlike
  case status | digest => exact (same.respondOk rfl).answersAlike
  all_goals exact same.respondBusErr.answersAlike

end

/-- Settles O42, kind by kind: what each transaction reads and updates is shared by the two states. -/
theorem nothingHiddenIsReadable : Obligations.NothingHiddenIsReadable := by
  unfold Obligations.NothingHiddenIsReadable
  intro s s' record same
  obtain ⟨k, -, decoded⟩ := decodeBus_cases record
  rw [decoded]
  cases k
  case rd8 => exact execRd8_alike same (recordAddr record) (recordWdata record)
  case wr8 => exact execWr8_alike same (recordAddr record) (recordWdata record)
  case rd32 => exact execRd32_alike same (recordAddr record) (recordWdata record)
  case wr32 => exact execWr32_alike same (recordAddr record) (recordWdata record)

end Sys2Proof.Machine
end

section
/-! The digest at the host's reads (R221): the computation runs to DONE (R146), and what follows keeps its result (R73). -/

namespace Sys2Proof.Machine

variable {s : State} {es rest : List Event} {m : List Byte}

/-- The message PAD reads is the one written (R123). -/
theorem message_eq_of_read (len : s.MSG_LEN.toNat = m.length) (written : ∀ j < m.length, s.MSG.read j = m[j]?) :
    s.message = m := by
  apply List.ext_getElem ((length_message s).trans len)
  intro j _ within
  have byte := written j within
  rw [List.getElem?_eq_getElem within] at byte
  simp [State.message, msgByte_of_read byte]

/-- In DONE every event but a reset is taken with an answer. -/
theorem step_answers_of_done {e : Event} (done : s.PHASE = PHASE_DONE) (events : s.events = e :: es)
    (keeps : e.abandons s.params = false) : ∃ t, step s = .next t ∧ t.events = es := by
  cases e with
  | engine => exact ⟨_, (step_of_engine events).trans (exec_uop_of_resting (.inr done) _), rfl⟩
  | host record =>
    obtain ⟨t, answers⟩ := exec_bus_answers (s.setEvents es) record
    obtain ⟨-, -, -, -, -, -, -, -, -, events', -⟩ := exec_bus_frame answers
    exact ⟨t, (step_of_host events).trans answers, events'⟩
  | reset => cases keeps

/-- From DONE, events without START, ABORT and reset are all taken and keep the result (R73). -/
theorem run_keeps_result (done : s.PHASE = PHASE_DONE) (events : s.events = es ++ rest)
    (keeps : ∀ e ∈ es, e.abandons s.params = false ∧ e.starts s.params = false) :
    ∃ t, run es.length s = .next t ∧ SameResult s t ∧ t.events = rest := by
  induction es generalizing s with
  | nil => exact ⟨s, rfl, ⟨done, rfl, rfl, rfl⟩, events⟩
  | cons e es ih =>
    obtain ⟨⟨noAbandon, noStart⟩, keepsRest⟩ := List.forall_mem_cons.mp keeps
    obtain ⟨t, first, events'⟩ := step_answers_of_done done events noAbandon
    have keepsFirst : ∀ e' es', s.events = e' :: es' → KeepsResult s e' := by
      intro e' es' taken
      obtain ⟨rfl, -⟩ := List.cons.inj (events.symm.trans taken)
      exact ⟨noAbandon, fun start => by simp [noStart] at start⟩
    obtain ⟨done', hash, hex, params⟩ := step_sameResult done keepsFirst first
    obtain ⟨u, ran, ⟨phase, hash', hex', params'⟩, events''⟩ := ih done' events' (params ▸ keepsRest)
    exact ⟨u, (run_succ first _).trans ran,
      ⟨phase, hash'.trans hash, hex'.trans hex, params'.trans params⟩, events''⟩

/-- A HEXBUF byte is the code of a character of the text it was rendered from. -/
theorem exists_char_of_hexbuf {hex : Vector Byte 64} {text : List Char} (rendered : hex.toList = text.map asciiCode)
    (k : Fin 64) : ∃ c, text[k.val]? = some c ∧ hex[k] = asciiCode c := by
  have byte : (text.map asciiCode)[k.val]? = some hex[k] := by rw [← rendered]; simp
  rw [List.getElem?_map] at byte
  obtain ⟨c, char, code⟩ := Option.map_eq_some_iff.mp byte
  exact ⟨c, char, code.symm⟩

/-- Settles O56: the computation leaves the digest in `H` and `HEXBUF`, the later events keep it, and in DONE the host
reads it. -/
theorem hostObservesHash : Obligations.HostObservesHash := by
  unfold Obligations.HostObservesHash
  intro s m record before later after free fits len written start events keeps turns keepsResult
  obtain rfl := message_eq_of_read len written
  rw [← len] at fits
  have accepts := (acceptsStart_iff s).mpr ⟨free, fits⟩
  obtain ⟨⟨t, ran, ⟨same, stage⟩, events'⟩, -⟩ :=
    run_computes accepts start (after := later ++ after) (by simpa using events) keeps turns
  obtain ⟨done, -, ⟨-, -, hash⟩, hex⟩ := stage.result
  obtain ⟨u, ranLater, ⟨phase, hash', hex', params⟩, events''⟩ :=
    run_keeps_result done events' (same.params ▸ keepsResult)
  have shown := (done_iff u).mpr phase
  rw [← same.params, ← params, ← hash, ← hash']
  rw [← hex'] at hex
  refine ⟨u, (run_add ran _).trans ranLater, shown, events'', fun i => exec_rd32_digest shown i 0, fun k => ?_⟩
  obtain ⟨c, char, code⟩ := exists_char_of_hexbuf hex k
  exact ⟨c, char, code ▸ exec_rd8_hex shown k 0⟩

end Sys2Proof.Machine
end

section
/-! The exceptions the block does not have (60_exceptions.md): the order of the checks of one CTRL write, of which at most
one raises a flag (R244), and the engine's step, total on the sequencer's states (R240). -/

namespace Sys2Proof.Machine

/-! ## The checks of a CTRL write -/

/-- A WR32 to `BASE` is the operation of its command word (R92, R213). -/
theorem exec_wr32_base_eq_exec_decodeCmd (s : State) (w : BitVec 32) :
    exec (.wr32 s.params.base w) s = exec (decodeCmd w) s :=
  (exec_wr32_base s w).trans (exec_decodeCmd s w).symm

theorem decodeCmd_eq_illegal {w : BitVec 32} (h : w.toNat / 16 ≠ 0 ∨ 3 ≤ w.toNat % 16) : decodeCmd w = .illegal w := by
  rw [decodeCmd, decodeCommand_eq_illegal h]

/-- A CTRL write raises CMDERR, or LENERR, or neither: of its outcomes one sets the former, one the latter, and the
others set none (R244). -/
theorem performCommand_raises_at_most_one (s : State) (w : BitVec 32) :
    ((performCommand s w).CMDERR = true → s.CMDERR = true) ∨ ((performCommand s w).LENERR = true → s.LENERR = true) := by
  rcases performCommand_cases s w with nothing | cmderr | ⟨-, -, -, lenerr⟩ | ⟨-, -, -, start⟩ | ⟨-, abort⟩
  · rw [nothing]; exact .inl id
  · rw [cmderr]; exact .inr id
  · rw [lenerr]; exact .inl id
  · rw [start]; exact .inl Bool.noConfusion
  · rw [abort]; exact .inl Bool.noConfusion

/-- Settles O17: the write is its command's operation, whose outcomes O14 and O16 give, and of them at most one flag is
raised. -/
theorem ctrlWritePriority : Obligations.CtrlWritePriority := by
  unfold Obligations.CtrlWritePriority
  intro s w
  obtain ⟨startBusy, startLong, -⟩ := startOutcomes s
  have performs := exec_wr32_base_eq_exec_decodeCmd s w
  refine ⟨fun illegal => ?illegal, ?busy, ?long, ?accepted, ?nop, ?abort, _, exec_wr32_base s w, ?oneFlag⟩
  case illegal => rw [performs, decodeCmd_eq_illegal illegal, illegalOutcome s w]
  case busy => rintro rfl busy; exact performs.trans (startBusy busy)
  case long => rintro rfl free long; exact performs.trans (startLong free long)
  case accepted => rintro rfl - -; exact performs
  case nop => rintro rfl; exact performs
  case abort => rintro rfl; exact performs
  case oneFlag =>
    rintro ⟨⟨cmderrLow, cmderrHigh⟩, lenerrLow, lenerrHigh⟩
    rcases performCommand_raises_at_most_one s w with notCmderr | notLenerr
    · exact Bool.false_ne_true (cmderrLow.symm.trans (notCmderr cmderrHigh))
    · exact Bool.false_ne_true (lenerrLow.symm.trans (notLenerr lenerrHigh))

/-! ## Every step answers -/

/-- In R44's phases every step answers, whatever its event: the engine's turn by `exec_uop_answers`, a transaction
always, and a reset is taken (R240). -/
theorem step_answers {s : State} (legal : s.PHASE.toNat ≤ 9) : ∃ t, step s = .next t := by
  cases events : s.events with
  | nil =>
    rw [step_of_silence events]
    exact exec_uop_answers legal
  | cons e es =>
    cases e with
    | engine =>
      rw [step_of_engine events]
      exact exec_uop_answers (s := s.setEvents es) legal
    | host record =>
      rw [step_of_host events]
      exact exec_bus_answers (s.setEvents es) record
    | reset => exact ⟨_, step_of_reset events⟩

/-- Settles O39: the invariant keeps PHASE among the codes whose turn answers. -/
theorem noStepStops : Obligations.NoStepStops := by
  unfold Obligations.NoStepStops
  exact fun _ inv => step_answers inv.phase_legal

end Sys2Proof.Machine
end

section
/-! Reset (70_reset_and_hazards.md): what the reset event sets at any state (R260), and what the host reads after it
(R261), which is the reads' values (R211, R218) at a state outside DONE. -/

namespace Sys2Proof.Machine

/-- Settles O34: the step is the reset, and each listed register has its reset value. -/
theorem resetEventOutcome : Obligations.ResetEventOutcome := by
  unfold Obligations.ResetEventOutcome
  intro s es events
  exact ⟨_, step_of_reset events, State.takeReset_PHASE _, State.takeReset_T _, State.takeReset_BLK _,
    State.takeReset_NBLK _, State.takeReset_CMDERR _, State.takeReset_LENERR _, State.takeReset_MSG_LEN _⟩

section
variable (p : Params) (es : List Event) (n : Nat)

/-- Reset leaves the sequencer outside DONE, so that the unspecified `H` and `HEXBUF` are not shown (R211, R218). -/
theorem afterReset_PHASE_ne_done : (State.afterReset p es n).PHASE ≠ 9 := by
  change (0 : BitVec 4) ≠ 9
  decide

/-- Every field of STATUS is 0 after reset (R40, R260). -/
theorem afterReset_statusWord : (State.afterReset p es n).statusWord = 0 := by
  simp [State.statusWord, State.busy, State.done, State.afterReset]

end

/-- Settles O33: CTRL, STATUS and MSG_LEN read their reset values, DIGEST and HEX read 0 outside DONE, and a MSG byte
reads as the unwritten byte it is. -/
theorem resetAsHostSeesIt : Obligations.ResetAsHostSeesIt := by
  unfold Obligations.ResetAsHostSeesIt
  rintro p es n s rfl
  have notDone := afterReset_PHASE_ne_done p es n
  obtain ⟨ctrl, status, msgLen, digest⟩ := rd32Values (State.afterReset p es n) 0
  obtain ⟨hex, msg⟩ := rd8Values (State.afterReset p es n) 0
  rw [← statusWord_eq, afterReset_statusWord] at status
  simp only [if_neg notDone] at digest hex
  exact ⟨ctrl, status, msgLen, digest, hex, fun bound j within => (msg bound j within).2 rfl⟩

end Sys2Proof.Machine
end

section
/-! The encodings read back (R90-R97): every encoded form is recovered from its bits, decoding undoes encoding on the
well-formed operations, and encoding undoes decoding on every pattern. -/

namespace Sys2Proof

/-- An encoded form is recovered from its width and bits (R100). -/
theorem encodedOfBits_bits (e : Encoded) : encodedOfBits e.width e.bits = .ok e := by
  cases e with
  | bus record => exact (Laws.EncodedFormat.ofBus record).2
  | cmd word => exact (Laws.EncodedFormat.ofCmd word).2
  | uop phase => exact (Laws.EncodedFormat.ofUop phase).2

theorem decodeTableWord_bits (e : Encoded) : decodeTableWord e.width e.bits = some (decode e) := by
  rw [decodeTableWord, decodeBits, encodedOfBits_bits]

/-- The illegal words by the values of their fields (R94). -/
theorem isIllegalWord_iff (w : BitVec 32) : isIllegalWord w = true ↔ w.toNat / 16 ≠ 0 ∨ 3 ≤ w.toNat % 16 := by
  obtain ⟨rsv, op⟩ := commandFields w
  rw [isIllegalWord, decide_eq_true_iff, ne_eq, ← BitVec.toNat_inj, rsv, op]
  exact Iff.rfl

/-- The codes of R97 are read as reserved. -/
theorem decodeUop_of_reserved :
    ∀ code : BitVec 4, isReservedPhase code = true → decodeUop code = .reservedPhase code := by decide

/-- The reading of a code is well-formed and has that code (R95, R97). -/
theorem encode_decodeUop : ∀ phase : BitVec 4, (decodeUop phase).wf = true ∧ encode (decodeUop phase) = .uop phase := by
  decide

/-- A well-formed operation is read back from its encoding: a transaction by its record's fields, a command and a
micro-operation by its code. -/
theorem decode_encode {i : Instr} (wf : i.wf = true) : decode (encode i) = i := by
  cases i with
  | rd8 addr wdata => exact decodeBus_rd8 addr wdata
  | wr8 addr wdata => exact decodeBus_wr8 addr wdata
  | rd32 addr wdata => exact decodeBus_rd32 addr wdata
  | wr32 addr wdata => exact decodeBus_wr32 addr wdata
  | illegal word => exact Machine.decodeCmd_eq_illegal ((isIllegalWord_iff word).mp wf)
  | reservedPhase code => exact decodeUop_of_reserved code wf
  | nop | start | abort => decide
  | idle | init | pad | load | expand | winit | round | fold | finalize | done => rfl

/-- Settles O1: the bits give the encoded form back, and the encoded form the operation. -/
theorem decodeOfEncode : Obligations.DecodeOfEncode := by
  unfold Obligations.DecodeOfEncode
  intro i wf
  rw [decodeTableWord_bits, decode_encode wf]

/-- The reading of a record is well-formed and has that record (R91). -/
theorem encode_decodeBus (record : BitVec 66) :
    (decodeBus record).wf = true ∧ encode (decodeBus record) = .bus record := by
  obtain ⟨k, code, decoded⟩ := decodeBus_cases record
  have fields := busRecord_fields record k code
  rw [decoded]
  cases k <;> exact ⟨rfl, congrArg Encoded.bus fields⟩

/-- The reading of a command word is well-formed and has that word (R93, R94). -/
theorem encode_decodeCmd (word : BitVec 32) : (decodeCmd word).wf = true ∧ encode (decodeCmd word) = .cmd word := by
  have spec := Machine.decodeCommand_spec word
  rw [decodeCmd]
  cases command : decodeCommand word <;> rw [command] at spec
  case nop | start | abort => exact ⟨rfl, congrArg Encoded.cmd spec.symm⟩
  case illegal => exact ⟨(isIllegalWord_iff word).mpr spec, rfl⟩

/-- Settles O2, format by format. -/
theorem encodeOfDecode : Obligations.EncodeOfDecode := by
  unfold Obligations.EncodeOfDecode
  intro e
  cases e with
  | bus record => exact encode_decodeBus record
  | cmd word => exact encode_decodeCmd word
  | uop phase => exact encode_decodeUop phase

/-- Settles O4, by evaluating the decoder on each of the twelve words. -/
theorem writtenWordsDecode : Obligations.WrittenWordsDecode := by
  unfold Obligations.WrittenWordsDecode
  decide

end Sys2Proof
end

section
/-! What the next step runs (R71): the operation of the next event, and a pattern placed as the next operation (log 12). -/

namespace Sys2Proof.Machine

/-- Settles O5, one kind of event at a time. -/
theorem stepRunsNextEvent : Obligations.StepRunsNextEvent := by
  unfold Obligations.StepRunsNextEvent
  exact ⟨fun _ => step_of_silence, fun _ _ => step_of_engine, fun _ _ _ => step_of_host, fun _ _ => step_of_reset⟩

/-- The pattern of an encoded form is placed as that form. -/
theorem withFetchWord_bits (s : State) (e : Encoded) : s.withFetchWord e.width e.bits = s.placeNext e := by
  rw [State.withFetchWord, encodedOfBits_bits]

/-- A placed record is the next transaction. -/
theorem step_placeNext_bus (s : State) (record : BitVec 66) :
    step (s.placeNext (.bus record)) = exec (decodeBus record) s := step_of_host rfl

/-- A placed command word is the next WR32 to CTRL, which is its command (R92). -/
theorem step_placeNext_cmd (s : State) (word : BitVec 32) :
    step (s.placeNext (.cmd word)) = exec (decodeCmd word) s := by
  have write : step (s.placeNext (.cmd word)) = exec (decodeBus (busRecord .wr32 s.params.base word)) s :=
    step_of_host rfl
  rw [write, decodeBus_wr32, exec_wr32_base_eq_exec_decodeCmd]

/-- A placed code is the phase of the engine's next turn. -/
theorem step_placeNext_uop (s : State) (phase : BitVec 4) :
    step (s.placeNext (.uop phase)) = exec (decodeUop phase) { s with PHASE := phase } := step_of_engine rfl

/-- Settles O6: each format's pattern is placed as its encoded form, which the next step runs. -/
theorem placedWordRuns : Obligations.PlacedWordRuns := by
  unfold Obligations.PlacedWordRuns
  refine ⟨fun s r => ?bus, fun s w => ?cmd, fun s p => ?uop⟩
  case bus => exact (congrArg step (withFetchWord_bits s (.bus r))).trans (step_placeNext_bus s r)
  case cmd => exact (congrArg step (withFetchWord_bits s (.cmd w))).trans (step_placeNext_cmd s w)
  case uop => exact (congrArg step (withFetchWord_bits s (.uop p))).trans (step_placeNext_uop s p)

end Sys2Proof.Machine
end

section
/-! Who writes what (10_state.md R20): one frame per operation, from which come the writers of each register, what no
micro-operation changes (R32-R35, R38), the reads' lack of effect (R68) and where the error flags fall (R247, D20). -/

namespace Sys2Proof.Machine

/-! ## The frame of every operation -/

/-- `t` is `s` but for the registers that R20's table has operation `i` write, and a transaction's response (R90). A WR32
writes by its address. -/
def Frame (i : Instr) (s t : State) : Prop :=
  match i with
  | .rd8 _ _ | .rd32 _ _ | .nop => ∃ r, t = { s with response := r }
  | .wr8 _ _ => ∃ m r, t = { s with MSG := m, response := r }
  | .wr32 addr _ =>
    (addr = hostAddr s.params 0x0000 ∧
      ∃ c l p n r, t = { s with CMDERR := c, LENERR := l, PHASE := p, T := n, response := r }) ∨
    (addr = hostAddr s.params 0x0008 ∧ ∃ n r, t = { s with MSG_LEN := n, response := r }) ∨
    ∃ r, t = { s with response := r }
  | .start | .abort => ∃ c l p n r, t = { s with CMDERR := c, LENERR := l, PHASE := p, T := n, response := r }
  | .illegal _ => ∃ c r, t = { s with CMDERR := c, response := r }
  | .idle | .done => t = s
  | .init | .fold => ∃ hs b p n, t = { s with H := hs, BLK := b, PHASE := p, T := n }
  | .pad => ∃ m l b p n, t = { s with P := m, PLEN := l, NBLK := b, PHASE := p, T := n }
  | .load | .expand => ∃ ws p n, t = { s with W := ws, PHASE := p, T := n }
  | .winit | .round => ∃ vs p n, t = { s with v := vs, PHASE := p, T := n }
  | .finalize => ∃ hex p n, t = { s with HEXBUF := hex, PHASE := p, T := n }
  | .reservedPhase _ => False

section
variable {s t : State}

/-- RD8 answers whatever its data, and changes only the response (R68, R90). -/
theorem exec_rd8_response (s : State) (addr : BitVec 32) :
    ∃ r : Response, ∀ d, exec (.rd8 addr d) s = .next { s with response := some r } := by
  obtain ⟨r, answers⟩ := exec_read s (record := busRecord .rd8 addr 0) (by simp [isReadRecord])
  rw [decodeBus_rd8] at answers
  exact ⟨r, fun _ => answers s.events⟩

/-- RD32 answers whatever its data, and changes only the response (R68, R90). -/
theorem exec_rd32_response (s : State) (addr : BitVec 32) :
    ∃ r : Response, ∀ d, exec (.rd32 addr d) s = .next { s with response := some r } := by
  obtain ⟨r, answers⟩ := exec_read s (record := busRecord .rd32 addr 0) (by simp [isReadRecord])
  rw [decodeBus_rd32] at answers
  exact ⟨r, fun _ => answers s.events⟩

/-- A CTRL write changes the flags and the position only (R213). -/
theorem performCommand_writes (s : State) (w : BitVec 32) :
    ∃ c l p n, performCommand s w = { s with CMDERR := c, LENERR := l, PHASE := p, T := n } := by
  rcases performCommand_cases s w with e | e | ⟨-, -, -, e⟩ | ⟨-, -, -, e⟩ | ⟨-, e⟩ <;> exact ⟨_, _, _, _, e⟩

theorem execWr8_frame {addr d : BitVec 32} (h : execWr8 addr d s = .next t) : Frame (.wr8 addr d) s t := by
  unfold execWr8 at h
  cases place : locate s.params addr <;> rw [place] at h
  case msg j =>
    cases busy : s.busy <;> rw [busy] at h <;> cases h <;> exact ⟨_, _, rfl⟩
  all_goals cases h; exact ⟨_, _, rfl⟩

theorem execWr32_frame {addr d : BitVec 32} (h : execWr32 addr d s = .next t) : Frame (.wr32 addr d) s t := by
  unfold execWr32 at h
  cases place : locate s.params addr <;> rw [place] at h
  case ctrl =>
    obtain ⟨c, l, p, n, e⟩ := performCommand_writes s d
    have base := (locate_eq_ctrl_iff s.params addr).mp place
    cases h
    exact .inl ⟨base.trans (hostAddr_zero _).symm, c, l, p, n, _, by rw [e]; rfl⟩
  case msgLen =>
    have offset := (locate_eq_msgLen_iff s.params addr).mp place
    cases busy : s.busy <;> rw [busy] at h <;> cases h <;> exact .inr (.inl ⟨offset, _, _, rfl⟩)
  all_goals cases h; exact .inr (.inr ⟨_, rfl⟩)

/-- A micro-operation that ends in one of two states has a frame that both have. -/
theorem frame_of_ite {i : Instr} {c : Prop} [Decidable c] {a b : State} (ha : Frame i s a) (hb : Frame i s b)
    (h : (if c then .next a else .next b : Host.Outcome State Fault Refusal) = .next t) : Frame i s t := by
  split at h <;> cases h <;> assumption

/-- Every operation that answers keeps to its frame. -/
theorem exec_frame {i : Instr} (h : exec i s = .next t) : Frame i s t := by
  cases i with
  | rd8 addr d =>
    obtain ⟨r, answers⟩ := exec_rd8_response s addr
    cases (answers d).symm.trans h
    exact ⟨_, rfl⟩
  | rd32 addr d =>
    obtain ⟨r, answers⟩ := exec_rd32_response s addr
    cases (answers d).symm.trans h
    exact ⟨_, rfl⟩
  | wr8 addr d => exact execWr8_frame h
  | wr32 addr d => exact execWr32_frame h
  | nop => cases h; exact ⟨_, rfl⟩
  | start =>
    obtain ⟨c, l, p, n, e⟩ := performCommand_writes s 1
    cases h
    exact ⟨c, l, p, n, _, congrArg (State.respondOk · 0) e⟩
  | abort => cases h; exact ⟨_, _, _, _, _, rfl⟩
  | illegal word => cases h; exact ⟨_, _, rfl⟩
  | idle | done => cases h; rfl
  | init => cases h; exact ⟨_, _, _, _, rfl⟩
  | fold => refine frame_of_ite ?_ ?_ h <;> exact ⟨_, _, _, _, rfl⟩
  | pad => cases h; exact ⟨_, _, _, _, _, rfl⟩
  | load | expand => refine frame_of_ite ?_ ?_ h <;> exact ⟨_, _, _, rfl⟩
  | winit => cases h; exact ⟨_, _, _, rfl⟩
  | round => refine frame_of_ite ?_ ?_ h <;> exact ⟨_, _, _, rfl⟩
  | finalize => cases (exec_finalize s).symm.trans h; exact ⟨_, _, _, setHEXBUF_goto_done s _⟩
  | reservedPhase code => cases h

end

/-- Settles O32: each operation's frame holds the registers it may write, and every clause that names another register
is then an equation of that register with itself. -/
theorem onlyWritersWrite : Obligations.OnlyWritersWrite := by
  unfold Obligations.OnlyWritersWrite
  intro s t i h
  have frame := exec_frame h
  cases i with
  | rd8 | rd32 | nop => obtain ⟨r, rfl⟩ := frame; simp
  | wr8 => obtain ⟨m, r, rfl⟩ := frame; simp
  | wr32 addr d =>
    rcases frame with ⟨rfl, c, l, p, n, r, rfl⟩ | ⟨rfl, n, r, rfl⟩ | ⟨r, rfl⟩ <;> simp
  | start | abort => obtain ⟨c, l, p, n, r, rfl⟩ := frame; simp
  | illegal => obtain ⟨c, r, rfl⟩ := frame; simp
  | idle | done => obtain rfl := frame; simp
  | init | fold => obtain ⟨hs, b, p, n, rfl⟩ := frame; simp
  | pad => obtain ⟨m, l, b, p, n, rfl⟩ := frame; simp
  | load | expand => obtain ⟨ws, p, n, rfl⟩ := frame; simp
  | winit | round => obtain ⟨vs, p, n, rfl⟩ := frame; simp
  | finalize => obtain ⟨hex, p, n, rfl⟩ := frame; simp
  | reservedPhase => exact frame.elim

/-! ## The engine's side -/

/-- The micro-operations (R95). -/
def microOps : List Instr := [.idle, .init, .pad, .load, .expand, .winit, .round, .fold, .finalize, .done]

/-- What a micro-operation may change is the datapath and the sequencer's registers. -/
theorem Frame.of_micro {i : Instr} {s t : State} (frame : Frame i s t) (micro : i ∈ microOps) : t = { s with
    H := t.H, v := t.v, W := t.W, P := t.P, PLEN := t.PLEN, NBLK := t.NBLK, BLK := t.BLK, T := t.T, PHASE := t.PHASE,
    HEXBUF := t.HEXBUF } := by
  cases i with
  | idle | done => obtain rfl := frame; rfl
  | init | fold => obtain ⟨hs, b, p, n, rfl⟩ := frame; rfl
  | pad => obtain ⟨m, l, b, p, n, rfl⟩ := frame; rfl
  | load | expand => obtain ⟨ws, p, n, rfl⟩ := frame; rfl
  | winit | round => obtain ⟨vs, p, n, rfl⟩ := frame; rfl
  | finalize => obtain ⟨hex, p, n, rfl⟩ := frame; rfl
  | rd8 | wr8 | rd32 | wr32 | nop | start | abort | illegal | reservedPhase => simp [microOps] at micro

/-- Settles O31: a micro-operation's frame leaves all that is the host's. -/
theorem engineLeavesHostState : Obligations.EngineLeavesHostState := by
  unfold Obligations.EngineLeavesHostState
  intro s t i micro h
  rw [(exec_frame h).of_micro micro]
  exact ⟨rfl, rfl, rfl, fun _ => rfl, fun _ => rfl, rfl, rfl, rfl, rfl⟩

/-- Settles O12: each read has one answer for all data, and it is all that changes. -/
theorem readsHaveNoSideEffects : Obligations.ReadsHaveNoSideEffects := by
  unfold Obligations.ReadsHaveNoSideEffects
  intro s addr
  obtain ⟨r, word⟩ := exec_rd32_response s addr
  obtain ⟨r', byte⟩ := exec_rd8_response s addr
  exact ⟨r, r', word, byte⟩

/-! ## The error flags -/

/-- An event clears a flag: it abandons the computation, or it is a START that is accepted (R247). -/
def ClearsFlags (s : State) (e : Event) : Prop :=
  e.abandons s.params = true ∨ e.starts s.params = true ∧ s.acceptsStart = true

/-- A transaction that is no ABORT and no accepted START keeps a raised flag raised: of the other effects none clears
one. -/
theorem exec_bus_keeps_flags {record : BitVec 66} {s t : State} (keeps : ¬ClearsFlags s (.host record))
    (h : exec (decodeBus record) s = .next t) :
    (s.CMDERR = true → t.CMDERR = true) ∧ (s.LENERR = true → t.LENERR = true) := by
  obtain ⟨s', r, e, effect⟩ := exec_bus_cases record s
  cases e.symm.trans h
  rcases effect with rfl | ⟨w, decoded, rfl⟩ | ⟨_, _, -, -, rfl⟩ | ⟨_, -, rfl⟩
  case inr.inl =>
    rcases performCommand_cases s w with nothing | cmderr | ⟨-, -, -, lenerr⟩ | ⟨free, fits, start, -⟩ | ⟨abort, -⟩
    · rw [nothing]; exact ⟨id, id⟩
    · rw [cmderr]; exact ⟨fun _ => rfl, id⟩
    · rw [lenerr]; exact ⟨id, fun _ => rfl⟩
    · exact absurd (.inr ⟨by simp [Event.starts, decoded, start], (acceptsStart_iff s).mpr ⟨free, fits⟩⟩) keeps
    · exact absurd (.inl (by simp [Event.abandons, decoded, abort])) keeps
  all_goals exact ⟨id, id⟩

/-- Settles O18: no micro-operation changes a flag, and a transaction lowers one only as an ABORT or an accepted START. -/
theorem errorFlagsFallOnlyThere : Obligations.ErrorFlagsFallOnlyThere := by
  unfold Obligations.ErrorFlagsFallOnlyThere
  intro s t h falls
  rcases step_cases h with ⟨es, -, turn⟩ | ⟨record, es, events, transaction⟩ | ⟨es, events, -⟩
  case inl =>
    obtain ⟨cmderr, lenerr, -⟩ := exec_uop_frame (s := s.setEvents es) turn
    simp [cmderr, lenerr] at falls
  case inr.inl =>
    refine ⟨_, es, events, by_contra fun keeps => ?_⟩
    obtain ⟨cmderr, lenerr⟩ := exec_bus_keeps_flags (s := s.setEvents es) keeps transaction
    rcases falls with ⟨raised, cleared⟩ | ⟨raised, cleared⟩
    · exact Bool.false_ne_true (cleared.symm.trans (cmderr raised))
    · exact Bool.false_ne_true (cleared.symm.trans (lenerr raised))
  case inr.inr => exact ⟨_, es, events, .inl rfl⟩

/-! ## Forms that no reachable state runs -/

/-- Storing cut-off bytes from index 0 up leaves the indexes from the cut on alone. -/
theorem Memory.read_writeBytes_take (m : Memory) (xs : List Byte) {n i : Nat} (h : n ≤ i) :
    (m.writeBytes 0 (xs.take n)).read i = m.read i :=
  m.read_writeBytes_zero_of_le ((List.length_take_le n xs).trans h)

/-- PAD for any length (R123; log 9): what it stores and counts is cut to the buffer and the registers. -/
theorem exec_pad_cut (s : State) : exec .pad s = .next { s with
    P := s.P.writeBytes 0 ((padMessage s.message).take s.params.pbufMax),
    PLEN := (padMessage s.message).length % 2 ^ s.params.plenW,
    NBLK := (padMessage s.message).length / 64 % 2 ^ s.params.blkW, PHASE := 3, T := 0 } := rfl

/-- FOLD for any BLK (R142; log 7): the count is cut to its register before the test. -/
theorem exec_fold_cut (s : State) : exec .fold s = .next { s with
    H := addWords s.H s.v, BLK := (s.BLK + 1) % 2 ^ s.params.blkW,
    PHASE := if (s.BLK + 1) % 2 ^ s.params.blkW < s.NBLK then 3 else 8, T := 0 } := by
  by_cases more : (s.BLK + 1) % 2 ^ s.params.blkW < s.NBLK
  · rw [if_pos more]; exact if_pos more
  · rw [if_neg more]; exact if_neg more

/-- Settles O28: each form's equation holds for every state, with the register cut where the value may exceed it. -/
theorem unreachedFormsComplete : Obligations.UnreachedFormsComplete := by
  unfold Obligations.UnreachedFormsComplete
  refine ⟨fun s low => ?expand, fun s _ => ?pad, fun s => ?fold⟩
  case expand =>
    exact ⟨(s.writeSched s.expandedWord).W, exec_expand_of_lt (by omega), fun i => writeSched_getElem_other s _⟩
  case pad =>
    exact ⟨_, _, _, exec_pad_cut s, Nat.mod_lt _ (Nat.two_pow_pos _), Nat.mod_lt _ (Nat.two_pow_pos _),
      fun j => Memory.read_writeBytes_take _ _⟩
  case fold =>
    refine ⟨_, _, _, exec_fold_cut s, rfl, ?_, fun i => addWords_getElem s.H s.v i i.isLt⟩
    split
    · exact .inl rfl
    · exact .inr rfl

end Sys2Proof.Machine
end

section
/-! The invariants of the stores and of the sequencer (R27, R35, R44), kept by every step: the engine's turn, a transaction
and the reset, each by what it writes. -/

namespace Sys2Proof.Machine

/-! ## The byte stores (R27, R35) -/

section
variable {s t : State}

/-- The stores' invariant speaks of MSG, P and the parameters. -/
theorem StoresInv.congr (inv : StoresInv s) (msg : t.MSG = s.MSG) (pad : t.P = s.P) (params : t.params = s.params) :
    StoresInv t := by
  obtain ⟨msgWf, padWf, msgBound, padBound⟩ := inv
  constructor
  · rw [msg]; exact msgWf
  · rw [pad]; exact padWf
  · rw [msg, params]; exact msgBound
  · rw [pad, params]; exact padBound

/-- A message byte inside MSG is stored in the canonical form (R219). -/
theorem StoresInv.writeMsg (inv : StoresInv s) {j : Nat} (within : j < s.params.msgMaxBytes) (x : Byte) :
    StoresInv (s.writeMsg j x) where
  msg_wf := Memory.write_wf inv.msg_wf j x
  pad_wf := inv.pad_wf
  msg_bound c listed := by
    rcases Memory.mem_write listed with rfl | before
    · exact within
    · exact inv.msg_bound c before
  pad_bound := inv.pad_bound

/-- What PAD stores is cut to the buffer (R27). -/
theorem StoresInv.writePad (inv : StoresInv s) (bytes : List Byte) : StoresInv (s.writePad bytes) where
  msg_wf := inv.msg_wf
  pad_wf := Memory.writeBytes_wf inv.pad_wf 0 _
  msg_bound := inv.msg_bound
  pad_bound c listed := by
    rcases Memory.mem_writeBytes listed with ⟨-, below⟩ | before
    · have cut := List.length_take_le s.params.pbufMax bytes
      simp only [State.writePad] at below ⊢
      omega
    · exact inv.pad_bound c before

/-- After reset the stores list no byte. -/
theorem storesInv_afterReset (p : Params) (es : List Event) (n : Nat) : StoresInv (State.afterReset p es n) where
  msg_wf := .nil
  pad_wf := .nil
  msg_bound := List.forall_mem_nil _
  pad_bound := List.forall_mem_nil _

/-- No operation but PAD writes P, PLEN or NBLK. -/
theorem exec_keeps_padded {i : Instr} (h : exec i s = .next t) (other : i ≠ .pad) :
    t.P = s.P ∧ t.PLEN = s.PLEN ∧ t.NBLK = s.NBLK := by
  have frame := exec_frame h
  cases i
  case pad => exact absurd rfl other
  case reservedPhase => exact frame.elim
  all_goals simp only [Frame] at frame; grind

/-- The engine's turn keeps the stores: PAD stores inside the buffer, and nothing else stores at all. -/
theorem exec_uop_storesInv (inv : StoresInv s) (turn : exec (decodeUop s.PHASE) s = .next t) : StoresInv t := by
  by_cases pad : decodeUop s.PHASE = .pad
  · rw [pad] at turn
    cases turn
    exact (inv.writePad (padMessage s.message)).congr rfl rfl rfl
  · obtain ⟨-, -, -, msg, params, -⟩ := exec_uop_frame turn
    obtain ⟨store, -⟩ := exec_keeps_padded turn pad
    exact inv.congr msg store params

/-- A transaction keeps the stores: WR8 stores inside MSG, and nothing else stores at all. -/
theorem exec_bus_storesInv {record : BitVec 66} (inv : StoresInv s) (h : exec (decodeBus record) s = .next t) :
    StoresInv t := by
  obtain ⟨s', r, e, effect⟩ := exec_bus_cases record s
  cases e.symm.trans h
  rcases effect with rfl | ⟨w, -, rfl⟩ | ⟨j, x, -, within, rfl⟩ | ⟨_, -, rfl⟩
  · exact inv.congr rfl rfl rfl
  · obtain ⟨c, l, p, n, e⟩ := performCommand_writes s w
    rw [e]
    exact inv.congr rfl rfl rfl
  · exact (inv.writeMsg within x).congr rfl rfl rfl
  · exact inv.congr rfl rfl rfl

/-- Settles O36, by the three kinds of events. -/
theorem storesInvKept : Obligations.StoresInvKept := by
  unfold Obligations.StoresInvKept
  intro s t inv h
  rcases step_cases h with ⟨es, -, turn⟩ | ⟨record, es, -, transaction⟩ | ⟨es, -, rfl⟩
  · exact exec_uop_storesInv (s := s.setEvents es) (inv.congr rfl rfl rfl) turn
  · exact exec_bus_storesInv (s := s.setEvents es) (inv.congr rfl rfl rfl) transaction
  · exact storesInv_afterReset _ _ _

end

/-! ## The sequencer's position (R44) -/

/-- The phase is legal and T in its range: what R44 says of PHASE and T alone. -/
structure LegalPosition (phase : BitVec 4) (index : BitVec 6) : Prop where
  phase_legal : phase.toNat ≤ 9
  load : phase = PHASE_LOAD → index.toNat < 16
  expand : phase = PHASE_EXPAND → 16 ≤ index.toNat
  zero : phase ≠ PHASE_LOAD → phase ≠ PHASE_EXPAND → phase ≠ PHASE_ROUND → index = 0

theorem legalPosition_zero {p : BitVec 4} (legal : p.toNat ≤ 9) (other : p ≠ PHASE_EXPAND) : LegalPosition p 0 :=
  ⟨legal, fun _ => by decide, fun e => absurd e other, fun _ _ _ => rfl⟩

theorem legalPosition_load {n : BitVec 6} (h : n.toNat < 16) : LegalPosition PHASE_LOAD n :=
  ⟨by decide, fun _ => h, fun e => absurd e (by decide), fun e => absurd rfl e⟩

theorem legalPosition_expand {n : BitVec 6} (h : 16 ≤ n.toNat) : LegalPosition PHASE_EXPAND n :=
  ⟨by decide, fun e => absurd e (by decide), fun _ => h, fun _ e => absurd rfl e⟩

theorem legalPosition_round (n : BitVec 6) : LegalPosition PHASE_ROUND n :=
  ⟨by decide, fun e => absurd e (by decide), fun e => absurd e (by decide), fun _ _ e => absurd rfl e⟩

/-- A block is under way: the phases LOAD to FOLD. -/
def Processing (phase : BitVec 4) : Prop := 3 ≤ phase.toNat ∧ phase.toNat ≤ 7

theorem processing_load : Processing PHASE_LOAD := ⟨by decide, by decide⟩
theorem processing_expand : Processing PHASE_EXPAND := ⟨by decide, by decide⟩
theorem processing_winit : Processing PHASE_WINIT := ⟨by decide, by decide⟩
theorem processing_round : Processing PHASE_ROUND := ⟨by decide, by decide⟩
theorem processing_fold : Processing PHASE_FOLD := ⟨by decide, by decide⟩

/-- Where a computation stands, and what R44 says there of the counts. -/
inductive Place (s : State) : Prop
  | before (phase : s.PHASE = PHASE_IDLE ∨ s.PHASE = PHASE_INIT)
  | pad (phase : s.PHASE = PHASE_PAD) (blk : s.BLK = 0)
  | block (phase : Processing s.PHASE) (more : s.BLK < s.NBLK) (length : s.PLEN = 64 * s.NBLK)
  | after (phase : s.PHASE = PHASE_FINALIZE ∨ s.PHASE = PHASE_DONE) (all : s.BLK = s.NBLK)

section
variable {s t : State}

theorem Place.blk_pad (place : Place s) (here : s.PHASE = PHASE_PAD) : s.BLK = 0 := by
  cases place with
  | before phase => simp [here] at phase
  | pad _ blk => exact blk
  | block phase => simp [here, Processing] at phase
  | after phase => simp [here] at phase

theorem Place.processing (place : Place s) (here : Processing s.PHASE) : s.BLK < s.NBLK ∧ s.PLEN = 64 * s.NBLK := by
  cases place with
  | before phase => rcases phase with e | e <;> simp [e, Processing] at here
  | pad phase => simp [phase, Processing] at here
  | block _ more length => exact ⟨more, length⟩
  | after phase => rcases phase with e | e <;> simp [e, Processing] at here

theorem Place.finished (place : Place s) (here : s.PHASE = PHASE_FINALIZE ∨ s.PHASE = PHASE_DONE) : s.BLK = s.NBLK := by
  cases place with
  | before phase => rcases phase with e | e <;> simp [e] at here
  | pad phase => simp [phase] at here
  | block phase => rcases here with e | e <;> simp [e, Processing] at phase
  | after _ all => exact all

/-- The sequencer's invariant from its parts: the position, the registers' ranges, the accepted length and the counts. -/
theorem sequencerInv_of_place (position : LegalPosition s.PHASE s.T) (place : Place s)
    (plen : s.PLEN < 2 ^ s.params.plenW) (nblk : s.NBLK ≤ s.params.nblkMax) (blk : s.BLK ≤ s.NBLK)
    (fits : s.busy = true → s.MSG_LEN.toNat ≤ s.params.msgMaxBytes) : SequencerInv s :=
  ⟨position.phase_legal, position.load, position.expand, position.zero, plen, nblk, blk, place.blk_pad, fits,
    fun above below => place.processing ⟨above, below⟩, place.finished⟩

/-- The invariant speaks of nothing that the flags, the response, the message bytes and the coming events hold. -/
theorem SequencerInv.of_hostState (inv : SequencerInv s) (c l : Bool) (m : Memory) (r : Option Response)
    (es : List Event) : SequencerInv { s with CMDERR := c, LENERR := l, MSG := m, response := r, events := es } :=
  ⟨inv.1, inv.2, inv.3, inv.4, inv.5, inv.6, inv.7, inv.8, inv.9, inv.10, inv.11⟩

/-- While not busy the length is free. -/
theorem SequencerInv.of_length (inv : SequencerInv s) (free : s.busy = false) (n : BitVec 32) :
    SequencerInv (s.setMSG_LEN n) :=
  { inv with len_ok := fun busy => absurd (busy.symm.trans free) Bool.noConfusion }

/-- A CTRL write leaves the position, or takes it to IDLE or, with a length that fits, to INIT (R215, R216). -/
theorem performCommand_sequencerInv (inv : SequencerInv s) (w : BitVec 32) : SequencerInv (performCommand s w) := by
  rcases performCommand_cases s w with e | e | ⟨-, -, -, e⟩ | ⟨-, fits, -, e⟩ | ⟨-, e⟩ <;> rw [e]
  · exact inv
  · exact inv.of_hostState _ _ _ _ _
  · exact inv.of_hostState _ _ _ _ _
  · exact sequencerInv_of_place (legalPosition_zero (p := PHASE_INIT) (by decide) (by decide)) (.before (.inr rfl))
      inv.plen_width inv.nblk_le inv.blk_le fun _ => fits
  · exact sequencerInv_of_place (legalPosition_zero (p := PHASE_IDLE) (by decide) (by decide)) (.before (.inl rfl))
      inv.plen_width inv.nblk_le inv.blk_le fun busy => absurd busy (by simp [State.busy])

/-- A transaction keeps the sequencer's invariant: the length changes only while not busy (R70). -/
theorem exec_bus_sequencerInv {record : BitVec 66} (inv : SequencerInv s) (h : exec (decodeBus record) s = .next t) :
    SequencerInv t := by
  obtain ⟨s', r, e, effect⟩ := exec_bus_cases record s
  cases e.symm.trans h
  rcases effect with rfl | ⟨w, -, rfl⟩ | ⟨_, _, -, -, rfl⟩ | ⟨n, free, rfl⟩
  · exact inv.of_hostState _ _ _ _ _
  · exact (performCommand_sequencerInv inv w).of_hostState _ _ _ _ _
  · exact inv.of_hostState _ _ _ _ _
  · exact (inv.of_length free n).of_hostState _ _ _ _ _

/-- After reset the sequencer is in IDLE with no block counted (R260). -/
theorem sequencerInv_afterReset (p : Params) (es : List Event) (n : Nat) : SequencerInv (State.afterReset p es n) :=
  sequencerInv_of_place (legalPosition_zero (p := PHASE_IDLE) (by decide) (by decide)) (.before (.inl rfl))
    (Nat.mod_lt _ (Nat.two_pow_pos _)) (Nat.zero_le _) le_rfl
    fun busy => absurd busy (by simp [State.busy, State.afterReset])

/-! ## The engine's turn -/

/-- While a block's micro-operations before FOLD are made, the counts stand (R140). -/
theorem SequencerInv.within_block (inv : SequencerInv s) (under : Processing s.PHASE) {p : BitVec 4} {n : BitVec 6}
    (position : LegalPosition p n) (under' : Processing p) (vs : Vector Word 8) (ws : Vector Word 64) :
    SequencerInv { s with v := vs, W := ws, PHASE := p, T := n } := by
  have ⟨above, below⟩ := under
  obtain ⟨more, length⟩ := inv.processing above below
  exact sequencerInv_of_place position (.block under' more length) inv.plen_width inv.nblk_le inv.blk_le
    fun _ => inv.len_ok ((busy_iff s).mpr ⟨by omega, by omega⟩)

/-- PAD counts the blocks of a length that fits (R121, R123). -/
theorem exec_pad_sequencerInv (inv : SequencerInv s) (phase : s.PHASE = PHASE_PAD) (turn : exec .pad s = .next t) :
    SequencerInv t := by
  have fits := inv.len_ok (by simp [State.busy, phase])
  have zero := inv.blk_pad phase
  obtain ⟨blocks, buffer⟩ := padded_fits fits
  have length : (padMessage s.message).length = 64 * blocksFor s.MSG_LEN.toNat := by
    rw [length_padMessage_blocks, length_message]
  have count : (padMessage s.message).length / 64 = blocksFor s.MSG_LEN.toNat := by omega
  have positive : 0 < blocksFor s.MSG_LEN.toNat := Nat.succ_pos _
  rw [exec_pad fits, count] at turn
  cases turn
  exact sequencerInv_of_place (legalPosition_load (n := 0) (by decide)) (.block processing_load (zero ▸ positive) length)
    (buffer.trans_lt (lt_two_pow_bitsFor _)) blocks (zero.le.trans (Nat.zero_le _)) fun _ => fits

/-- FOLD counts one block more, and goes on to the next or, after the last, to FINALIZE (R142). -/
theorem exec_fold_sequencerInv (inv : SequencerInv s) (phase : s.PHASE = PHASE_FOLD) (turn : exec .fold s = .next t) :
    SequencerInv t := by
  have fits := inv.len_ok (by simp [State.busy, phase])
  obtain ⟨more, length⟩ := inv.processing (by simp [phase]) (by simp [phase])
  have width : s.BLK + 1 < 2 ^ s.params.blkW := (Nat.le_trans more inv.nblk_le).trans_lt (lt_two_pow_bitsFor _)
  by_cases another : s.BLK + 1 < s.NBLK
  · rw [exec_fold_of_more width another] at turn
    cases turn
    exact sequencerInv_of_place (legalPosition_load (n := 0) (by decide)) (.block processing_load another length)
      inv.plen_width inv.nblk_le another.le fun _ => fits
  · rw [exec_fold_of_last width another] at turn
    cases turn
    exact sequencerInv_of_place (legalPosition_zero (p := PHASE_FINALIZE) (by decide) (by decide))
      (.after (.inl rfl) (by simp only []; omega)) inv.plen_width inv.nblk_le more fun _ => fits

/-- FINALIZE leaves all blocks counted, whatever bytes it writes (R202). -/
theorem SequencerInv.finalize (inv : SequencerInv s) (phase : s.PHASE = PHASE_FINALIZE) (bytes : Vector Byte 64) :
    SequencerInv ((s.setHEXBUF bytes).goto PHASE_DONE 0) := by
  have fits := inv.len_ok (by simp [State.busy, phase])
  exact sequencerInv_of_place (legalPosition_zero (p := PHASE_DONE) (by decide) (by decide))
    (.after (.inr rfl) (inv.finished (.inl phase))) inv.plen_width inv.nblk_le inv.blk_le fun _ => fits

/-- LOAD, EXPAND, WINIT and ROUND go on within the block, `T` in the range of the phase (R144). -/
theorem exec_uop_sequencerInv_of_block (inv : SequencerInv s) (here : s.PHASE = PHASE_LOAD ∨ s.PHASE = PHASE_EXPAND ∨
    s.PHASE = PHASE_WINIT ∨ s.PHASE = PHASE_ROUND) (turn : exec (decodeUop s.PHASE) s = .next t) : SequencerInv t := by
  rcases here with phase | phase | phase | phase
  · have under : Processing s.PHASE := phase ▸ processing_load
    have range := inv.t_load phase
    rw [phase] at turn
    by_cases last : s.T.toNat = 15
    · cases (exec_load_of_last last).symm.trans turn
      exact inv.within_block under (legalPosition_expand (n := 16) (by decide)) processing_expand _ _
    · have index := toNat_T_add_one (t := s.T) (by omega)
      cases (exec_load_of_lt (by omega)).symm.trans turn
      exact inv.within_block under (legalPosition_load (by omega)) processing_load _ _
  · have under : Processing s.PHASE := phase ▸ processing_expand
    have range := inv.t_expand phase
    rw [phase] at turn
    by_cases last : s.T.toNat = 63
    · cases (exec_expand_of_last last).symm.trans turn
      exact inv.within_block under (legalPosition_zero (by decide) (by decide)) processing_winit _ _
    · have index := toNat_T_add_one (t := s.T) (by omega)
      cases (exec_expand_of_lt (by omega)).symm.trans turn
      exact inv.within_block under (legalPosition_expand (by omega)) processing_expand _ _
  · have under : Processing s.PHASE := phase ▸ processing_winit
    rw [phase] at turn
    cases (exec_winit s).symm.trans turn
    exact inv.within_block under (legalPosition_round 0) processing_round _ _
  · have under : Processing s.PHASE := phase ▸ processing_round
    rw [phase] at turn
    by_cases last : s.T.toNat = 63
    · cases (exec_round_of_last last).symm.trans turn
      exact inv.within_block under (legalPosition_zero (by decide) (by decide)) processing_fold _ _
    · cases (exec_round_of_lt (by omega)).symm.trans turn
      exact inv.within_block under (legalPosition_round _) processing_round _ _

/-- The engine's turn keeps the sequencer's invariant, micro-operation by micro-operation (R144). -/
theorem exec_uop_sequencerInv (inv : SequencerInv s) (turn : exec (decodeUop s.PHASE) s = .next t) : SequencerInv t := by
  have block := exec_uop_sequencerInv_of_block inv (t := t)
  rcases exec_uop_cases s with ⟨-, e⟩ | ⟨phase, -⟩ | ⟨phase, -⟩ | ⟨phase, -⟩ | ⟨phase, -⟩ | ⟨phase, -⟩ | ⟨phase, -⟩ |
    ⟨phase, -⟩ | ⟨phase, -⟩ | ⟨-, e⟩ | ⟨-, e⟩
  · cases e.symm.trans turn; exact inv
  · have fits := inv.len_ok (by simp [State.busy, phase])
    rw [phase] at turn
    cases (initOutcome s).symm.trans turn
    exact sequencerInv_of_place (legalPosition_zero (p := PHASE_PAD) (by decide) (by decide)) (.pad rfl rfl)
      inv.plen_width inv.nblk_le (Nat.zero_le _) fun _ => fits
  · exact exec_pad_sequencerInv inv phase (by rw [phase] at turn; exact turn)
  · exact block (.inl phase) turn
  · exact block (.inr (.inl phase)) turn
  · exact block (.inr (.inr (.inl phase))) turn
  · exact block (.inr (.inr (.inr phase))) turn
  · exact exec_fold_sequencerInv inv phase (by rw [phase] at turn; exact turn)
  · rw [phase] at turn
    cases (exec_finalize s).symm.trans turn
    exact inv.finalize phase _
  · cases e.symm.trans turn; exact inv
  · cases e.symm.trans turn

/-- Settles O37, by the three kinds of events. -/
theorem sequencerInvKept : Obligations.SequencerInvKept := by
  unfold Obligations.SequencerInvKept
  intro s t inv h
  rcases step_cases h with ⟨es, -, turn⟩ | ⟨record, es, -, transaction⟩ | ⟨es, -, rfl⟩
  · exact exec_uop_sequencerInv (inv.setEvents es) turn
  · exact exec_bus_sequencerInv (inv.setEvents es) transaction
  · exact sequencerInv_afterReset _ _ _

end

end Sys2Proof.Machine
end

section
/-! What the datapath holds (R44, R45, R145): under the sequencer's invariant, `ComputationInv` says that a busy engine is
at a stage of its message's computation, and that in DONE `HEXBUF` renders `H`. In this form every step keeps it. -/

namespace Sys2Proof.Machine

/-- The engine, where busy, is at a stage of the computation of the message that START accepted; until FINALIZE has run,
`P` holds the padded message; in DONE `HEXBUF` renders `H`. -/
structure Tracks (s : State) : Prop where
  fits : s.busy = true → s.MSG_LEN.toNat ≤ s.params.msgMaxBytes
  stage : s.busy = true → ∃ k, Stage s.message s k
  padded : s.PHASE = PHASE_FINALIZE → HoldsPadded s.message s
  formatted : s.PHASE = PHASE_DONE → s.HEXBUF.toList = (formatHash s.H).map asciiCode

theorem length_padMessage_div (m : List Byte) : (padMessage m).length / 64 = blocksFor m.length := by
  rw [length_padMessage_blocks]; omega

/-- The phases of a block. -/
theorem Processing.cases : ∀ {p : BitVec 4}, Processing p →
    p = PHASE_LOAD ∨ p = PHASE_EXPAND ∨ p = PHASE_WINIT ∨ p = PHASE_ROUND ∨ p = PHASE_FOLD := by
  unfold Processing; decide

section
variable {s t : State} {m : List Byte} {k n : Nat} {block : List Byte}

/-- The phases of a computation (R31). -/
theorem busy_cases (busy : s.busy = true) :
    s.PHASE = PHASE_INIT ∨ s.PHASE = PHASE_PAD ∨ Processing s.PHASE ∨ s.PHASE = PHASE_FINALIZE := by
  have all : ∀ p : BitVec 4, 1 ≤ p.toNat ∧ p.toNat ≤ 8 →
      p = PHASE_INIT ∨ p = PHASE_PAD ∨ Processing p ∨ p = PHASE_FINALIZE := by unfold Processing; decide
  exact all _ ((busy_iff s).mp busy)

/-- The other legal phases are IDLE and DONE (R31). -/
theorem resting_of_not_busy (legal : s.PHASE.toNat ≤ 9) (free : s.busy = false) :
    s.PHASE = PHASE_IDLE ∨ s.PHASE = PHASE_DONE := by
  have all : ∀ p : BitVec 4, p.toNat ≤ 9 → ¬(1 ≤ p.toNat ∧ p.toNat ≤ 8) → p = PHASE_IDLE ∨ p = PHASE_DONE := by decide
  exact all _ legal ((not_busy_iff s).mp free)

/-! ## From the invariants to the stage -/

/-- From PAD to FINALIZE `P` holds the padded message. -/
theorem ComputationInv.holdsPadded (inv : ComputationInv s) (above : 3 ≤ s.PHASE.toNat) (below : s.PHASE.toNat ≤ 8) :
    HoldsPadded s.message s := by
  obtain ⟨nblk, stored⟩ := inv.padded above below
  exact ⟨stored, nblk.trans (length_padMessage_div _)⟩

/-- In a block's phases the invariants give the block's stage. -/
theorem ComputationInv.blockStage (inv : ComputationInv s) (seq : SequencerInv s) (under : Processing s.PHASE) :
    ∃ n, BlockStage (blockOf s.padded s.BLK) s n := by
  rcases under.cases with phase | phase | phase | phase | phase
  · exact ⟨_, .load phase rfl (seq.t_load phase) (inv.scheduled (.inl phase))⟩
  · exact ⟨_, .expand phase rfl (seq.t_expand phase) (inv.scheduled (.inr phase))⟩
  · exact ⟨_, .winit phase rfl fun i _ => inv.scheduleDone (by simp [phase]) (by simp [phase]) i⟩
  · exact ⟨_, .round phase rfl (fun i _ => inv.scheduleDone (by simp [phase]) (by simp [phase]) i) (inv.rounding phase)⟩
  · exact ⟨_, .fold phase rfl (fun i _ => inv.scheduleDone (by simp [phase]) (by simp [phase]) i) (inv.rounded phase)⟩

/-- While busy the invariants give the stage of the computation. -/
theorem ComputationInv.stage (inv : ComputationInv s) (seq : SequencerInv s) (busy : s.busy = true) :
    ∃ k, Stage s.message s k := by
  rcases busy_cases busy with phase | phase | under | phase
  · exact ⟨0, .init phase rfl⟩
  · exact ⟨1, .pad phase (inv.seeded phase) (seq.blk_pad phase) rfl⟩
  · have ⟨above, below⟩ := under
    obtain ⟨n, stage⟩ := inv.blockStage seq under
    exact ⟨_, .block n ⟨inv.holdsPadded above (by omega), (seq.processing above below).1,
      inv.chained above (by omega), stage⟩ rfl⟩
  · have nblk := (inv.holdsPadded (by simp [phase]) (by simp [phase])).nblk
    have all := seq.finished (.inl phase)
    refine ⟨2 + 130 * blocksFor s.message.length, .finalize phase ⟨nblk, all, ?_⟩ (by rw [totalTurns]; omega)⟩
    rw [inv.chained (by simp [phase]) (by simp [phase]), sha256Words, length_padMessage_div, all, nblk]
    rfl

theorem ComputationInv.tracks (inv : ComputationInv s) (seq : SequencerInv s) : Tracks s where
  fits := seq.len_ok
  stage := inv.stage seq
  padded phase := inv.holdsPadded (by simp [phase]) (by simp [phase])
  formatted := inv.formatted

/-! ## From the stage to the invariants -/

theorem BlockStage.processing (stage : BlockStage block s n) : Processing s.PHASE := by
  cases stage with
  | load phase => exact phase ▸ processing_load
  | expand phase => exact phase ▸ processing_expand
  | winit phase => exact phase ▸ processing_winit
  | round phase => exact phase ▸ processing_round
  | fold phase => exact phase ▸ processing_fold

/-- In LOAD and EXPAND the words below `T` are written (R45). -/
theorem BlockStage.scheduled (stage : BlockStage block s n) (here : s.PHASE = PHASE_LOAD ∨ s.PHASE = PHASE_EXPAND) :
    s.Scheduled block s.T.toNat := by
  cases stage with
  | load _ index _ words => exact index ▸ words
  | expand _ index _ words => exact index ▸ words
  | winit phase => simp [phase] at here
  | round phase => simp [phase] at here
  | fold phase => simp [phase] at here

/-- From WINIT on every word is written (R45). -/
theorem BlockStage.scheduleDone (stage : BlockStage block s n) (here : 5 ≤ s.PHASE.toNat) : s.Scheduled block 64 := by
  cases stage with
  | load phase => simp [phase] at here
  | expand phase => simp [phase] at here
  | winit _ _ words => exact words
  | round _ _ words => exact words
  | fold _ _ words => exact words

theorem BlockStage.rounding (stage : BlockStage block s n) (here : s.PHASE = PHASE_ROUND) :
    s.v = roundsUpTo (schedule block) s.H s.T.toNat := by
  cases stage with
  | round _ _ _ working => exact working
  | load phase => simp [phase] at here
  | expand phase => simp [phase] at here
  | winit phase => simp [phase] at here
  | fold phase => simp [phase] at here

theorem BlockStage.rounded (stage : BlockStage block s n) (here : s.PHASE = PHASE_FOLD) :
    s.v = roundsUpTo (schedule block) s.H 64 := by
  cases stage with
  | fold _ _ _ working => exact working
  | load phase => simp [phase] at here
  | expand phase => simp [phase] at here
  | winit phase => simp [phase] at here
  | round phase => simp [phase] at here

/-- In PAD `H` is seeded. -/
theorem Stage.seeded (stage : Stage m s k) (here : s.PHASE = PHASE_PAD) : s.H = Rom.IV := by
  cases stage with
  | pad _ seeded => exact seeded
  | init phase => simp [phase] at here
  | block n inBlock => have := inBlock.stage.processing; simp [here, Processing] at this
  | finalize phase => simp [phase] at here
  | done phase => simp [phase] at here

/-- In a block's phases a block is under way. -/
theorem Stage.inBlock (stage : Stage m s k) (here : Processing s.PHASE) : ∃ n, InBlock m s n := by
  cases stage with
  | block n inBlock => exact ⟨n, inBlock⟩
  | init phase => simp [phase, Processing] at here
  | pad phase => simp [phase, Processing] at here
  | finalize phase => simp [phase, Processing] at here
  | done phase => simp [phase, Processing] at here

/-- From FINALIZE on all blocks are folded. -/
theorem Stage.folded (stage : Stage m s k) (here : 8 ≤ s.PHASE.toNat) : AllFolded m s := by
  cases stage with
  | finalize _ folded => exact folded
  | done _ _ folded => exact folded
  | init phase => simp [phase] at here
  | pad phase => simp [phase] at here
  | block n inBlock => have := inBlock.stage.processing.2; omega

theorem Stage.hexbuf (stage : Stage m s k) (here : s.PHASE = PHASE_DONE) :
    s.HEXBUF.toList = (hashText m).map asciiCode := by
  cases stage with
  | done _ _ _ hex => exact hex
  | init phase => simp [phase] at here
  | pad phase => simp [phase] at here
  | block n inBlock => have := inBlock.stage.processing; simp [here, Processing] at this
  | finalize phase => simp [phase] at here

/-- A stage at which the engine is busy is before the last micro-operation. -/
theorem Stage.lt_total (stage : Stage m s k) (busy : s.busy = true) : k < totalTurns m := by
  unfold totalTurns
  cases stage with
  | init _ count => omega
  | pad _ _ _ count => omega
  | block n inBlock count =>
    have := inBlock.stage.le
    have := inBlock.more
    rw [← inBlock.padded.nblk]
    omega
  | finalize _ _ count => rw [totalTurns] at count; omega
  | done phase => simp [State.busy, phase] at busy

/-- In a block's phases a busy state that tracks its computation has a block under way. -/
theorem Tracks.inBlock (tracks : Tracks s) (under : Processing s.PHASE) : ∃ n, InBlock s.message s n := by
  have ⟨above, below⟩ := under
  obtain ⟨k, stage⟩ := tracks.stage ((busy_iff s).mpr ⟨by omega, by omega⟩)
  exact stage.inBlock under

theorem Tracks.computationInv (tracks : Tracks s) : ComputationInv s := by
  have finalize (phase : s.PHASE = PHASE_FINALIZE) : HoldsPadded s.message s ∧ AllFolded s.message s := by
    obtain ⟨k, stage⟩ := tracks.stage (by simp [State.busy, phase])
    exact ⟨tracks.padded phase, stage.folded (by simp [phase])⟩
  have place (above : 3 ≤ s.PHASE.toNat) (below : s.PHASE.toNat ≤ 8) : s.PHASE = PHASE_FINALIZE ∨ Processing s.PHASE := by
    by_cases eight : s.PHASE.toNat = 8
    · exact .inl (BitVec.eq_of_toNat_eq eight)
    · exact .inr ⟨above, by omega⟩
  refine ⟨fun phase => ?seeded, fun above below => ?padded, fun above below => ?chained, fun phase => ?scheduled,
    fun above below => ?scheduleDone, fun phase => ?rounding, fun phase => ?rounded, tracks.formatted⟩
  case seeded =>
    obtain ⟨k, stage⟩ := tracks.stage (by simp [State.busy, phase])
    exact stage.seeded phase
  case padded =>
    have holds : HoldsPadded s.message s := by
      rcases place above below with phase | under
      · exact (finalize phase).1
      · obtain ⟨n, inBlock⟩ := tracks.inBlock under
        exact inBlock.padded
    exact ⟨holds.nblk.trans (length_padMessage_div _).symm, holds.stored⟩
  case chained =>
    rcases place above below with phase | under
    · obtain ⟨-, nblk, blk, hash⟩ := finalize phase
      rw [hash, sha256Words, length_padMessage_div, blk, nblk]
      rfl
    · obtain ⟨n, inBlock⟩ := tracks.inBlock under
      exact inBlock.chained
  case scheduled =>
    obtain ⟨n, inBlock⟩ := tracks.inBlock (by rcases phase with e | e <;> simp [e, Processing])
    exact inBlock.stage.scheduled phase
  case scheduleDone =>
    obtain ⟨n, inBlock⟩ := tracks.inBlock ⟨by omega, below⟩
    exact fun i => inBlock.stage.scheduleDone above i i.isLt
  case rounding =>
    obtain ⟨n, inBlock⟩ := tracks.inBlock (phase ▸ processing_round)
    exact inBlock.stage.rounding phase
  case rounded =>
    obtain ⟨n, inBlock⟩ := tracks.inBlock (phase ▸ processing_fold)
    exact inBlock.stage.rounded phase

end
end Sys2Proof.Machine
end

section
/-! Every step keeps what the datapath holds (R44, R45, R145), and one block of it with the host silent (R140, R146). -/

namespace Sys2Proof.Machine

section
variable {s t : State} {m : List Byte} {k : Nat}

/-! ## The computation -/

/-- While not busy only DONE holds anything of a computation. -/
theorem tracks_of_not_busy (free : s.busy = false)
    (formatted : s.PHASE = PHASE_DONE → s.HEXBUF.toList = (formatHash s.H).map asciiCode) : Tracks s where
  fits busy := absurd (busy.symm.trans free) Bool.noConfusion
  stage busy := absurd (busy.symm.trans free) Bool.noConfusion
  padded phase := by simp [State.busy, phase] at free
  formatted := formatted

/-- In INIT the computation begins. -/
theorem tracks_of_init (phase : s.PHASE = PHASE_INIT) (fits : s.MSG_LEN.toNat ≤ s.params.msgMaxBytes) : Tracks s where
  fits _ := fits
  stage _ := ⟨0, .init phase rfl⟩
  padded here := by simp [phase] at here
  formatted here := by simp [phase] at here

/-- A computation does not depend on what the host sees change while it runs. -/
theorem Tracks.of_hostState (tracks : Tracks s) (c : Bool) (r : Option Response) (es : List Event) :
    Tracks { s with CMDERR := c, response := r, events := es } where
  fits := tracks.fits
  stage busy :=
    let ⟨k, stage⟩ := tracks.stage busy
    ⟨k, stage.of_hostState c r es⟩
  padded phase := ⟨(tracks.padded phase).stored, (tracks.padded phase).nblk⟩
  formatted := tracks.formatted

/-- Before FINALIZE comes a block's FOLD, so that `P` still holds the padded message: no other micro-operation but PAD
writes it. -/
theorem holdsPadded_of_finalize (stage : Stage m s k) (turn : exec (decodeUop s.PHASE) s = .next t)
    (next : Stage m t (k + 1)) (phase : t.PHASE = PHASE_FINALIZE) : HoldsPadded m t := by
  have count : k + 2 = totalTurns m := by
    cases next with
    | finalize _ _ count => exact count
    | init here => simp [here] at phase
    | pad here => simp [here] at phase
    | block n inBlock => have := inBlock.stage.processing; simp [phase, Processing] at this
    | done here => simp [here] at phase
  have blocks : 1 ≤ blocksFor m.length := Nat.le_add_left 1 _
  cases stage with
  | block n inBlock =>
    have other : decodeUop s.PHASE ≠ .pad := by
      rcases inBlock.stage.processing.cases with e | e | e | e | e <;> rw [e] <;> decide
    obtain ⟨store, -, nblk⟩ := exec_keeps_padded turn other
    exact ⟨store ▸ inBlock.padded.stored, nblk.trans inBlock.padded.nblk⟩
  | init => rw [totalTurns] at count; omega
  | pad => rw [totalTurns] at count; omega
  | finalize => omega
  | done => omega

/-- A turn of a busy engine makes the next stage. -/
theorem Tracks.turn_of_busy (tracks : Tracks s) (busy : s.busy = true) (turn : exec (decodeUop s.PHASE) s = .next t) :
    Tracks t ∧ ∃ k, Stage s.message t k := by
  obtain ⟨k, stage⟩ := tracks.stage busy
  obtain ⟨t', turn', next⟩ := stage.turn rfl (tracks.fits busy) (stage.lt_total busy)
  cases turn'.symm.trans turn
  obtain ⟨-, -, len, msg, params, -, -, epoch⟩ := exec_uop_frame turn
  have same : t.message = s.message := message_congr msg len epoch
  refine ⟨⟨fun _ => ?_, fun _ => ⟨_, same ▸ next⟩, fun phase => same ▸ holdsPadded_of_finalize stage turn next phase,
    fun phase => ?_⟩, _, next⟩
  · rw [len, params]; exact tracks.fits busy
  · rw [next.hexbuf phase, (next.folded (by simp [phase])).hash, hashText]

/-- The engine's turn keeps what the datapath holds. -/
theorem Tracks.turn (tracks : Tracks s) (legal : s.PHASE.toNat ≤ 9) (turn : exec (decodeUop s.PHASE) s = .next t) :
    Tracks t := by
  cases free : s.busy with
  | true => exact (tracks.turn_of_busy free turn).1
  | false =>
    cases (exec_uop_of_resting (resting_of_not_busy legal free) s).symm.trans turn
    exact tracks

/-- A CTRL write keeps what the datapath holds: it leaves the computation, ends it or begins one (R215, R216). -/
theorem Tracks.performCommand (tracks : Tracks s) (w : BitVec 32) : Tracks (performCommand s w) := by
  rcases performCommand_cases s w with e | e | ⟨free, -, -, e⟩ | ⟨-, fits, -, e⟩ | ⟨-, e⟩ <;> rw [e]
  · exact tracks
  · exact tracks.of_hostState true s.response s.events
  · exact tracks_of_not_busy free tracks.formatted
  · exact tracks_of_init rfl fits
  · exact tracks_of_not_busy (by simp [State.busy]) fun phase => by simp at phase

/-- A transaction keeps what the datapath holds: the message changes only while not busy (R70). -/
theorem Tracks.transaction {record : BitVec 66} (tracks : Tracks s) (h : exec (decodeBus record) s = .next t) :
    Tracks t := by
  obtain ⟨s', r, e, effect⟩ := exec_bus_cases record s
  cases e.symm.trans h
  rcases effect with rfl | ⟨w, -, rfl⟩ | ⟨_, _, free, -, rfl⟩ | ⟨_, free, rfl⟩
  · exact tracks.of_hostState _ _ _
  · exact (tracks.performCommand w).of_hostState _ _ _
  · exact tracks_of_not_busy free tracks.formatted
  · exact tracks_of_not_busy free tracks.formatted

/-- After reset nothing of a computation is held. -/
theorem tracks_afterReset (p : Params) (es : List Event) (n : Nat) : Tracks (State.afterReset p es n) :=
  tracks_of_not_busy (by simp [State.busy, State.afterReset]) fun phase => absurd phase (afterReset_PHASE_ne_done p es n)

/-- Settles O38: by the stage of the computation, which each kind of event keeps. -/
theorem computationInvKept : Obligations.ComputationInvKept := by
  unfold Obligations.ComputationInvKept
  intro s t seq inv h
  have tracks (es : List Event) : Tracks (s.setEvents es) := (inv.tracks seq).of_hostState s.CMDERR s.response es
  apply Tracks.computationInv
  rcases step_cases h with ⟨es, -, turn⟩ | ⟨record, es, -, transaction⟩ | ⟨es, -, rfl⟩
  · exact (tracks es).turn seq.phase_legal turn
  · exact (tracks es).transaction transaction
  · exact tracks_afterReset _ _ _

/-- Settles O35: after reset the stores are empty, the sequencer is in IDLE and no computation is under way. -/
theorem resetMeetsInvariants : Obligations.ResetMeetsInvariants := by
  unfold Obligations.ResetMeetsInvariants
  exact fun p es n =>
    ⟨storesInv_afterReset p es n, sequencerInv_afterReset p es n, (tracks_afterReset p es n).computationInv⟩

end

/-! ## One block -/

section
variable {s t u : State} {block : List Byte} {n k : Nat}

theorem SameOutsideBlock.trans (st : SameOutsideBlock s t) (tu : SameOutsideBlock t u) : SameOutsideBlock s u := by
  rw [SameOutsideBlock, tu, st]

/-- The silent host leaves the engine every turn of the block before FOLD. -/
theorem BlockStage.run (silent : s.events = []) (holds : s.HoldsBlock block) (stage : BlockStage block s n)
    (within : n + k ≤ 129) : ∃ t, run k s = .next t ∧ BlockStage block t (n + k) ∧ SameOutsideBlock s t := by
  induction k generalizing s n with
  | zero => exact ⟨s, rfl, stage, rfl⟩
  | succ k ih =>
    obtain ⟨t, turn, stage', same⟩ := stage.turn holds (by omega)
    obtain ⟨-, pad, -, blk⟩ := same.keeps
    obtain ⟨-, -, -, -, -, -, events, epoch⟩ := exec_uop_frame turn
    have holds' : t.HoldsBlock block := by
      unfold State.HoldsBlock State.padByte
      rw [pad, blk, epoch]
      exact holds
    obtain ⟨u, ran, stage'', same'⟩ := ih (events.trans silent) holds' stage' (by omega)
    exact ⟨u, (run_succ ((step_of_silence silent).trans turn) k).trans ran, by rwa [Nat.add_right_comm] at stage'',
      same.trans same'⟩

/-- A register of 64 words of which each is the schedule's is the schedule. -/
theorem State.Scheduled.toList_W (words : s.Scheduled block 64) : s.W.toList = schedule block := by
  apply List.ext_getElem (by simp)
  intro i below _
  have within : i < 64 := by simpa using below
  simpa [List.getD_eq_getElem?_getD, within] using words ⟨i, within⟩ within

/-- FOLD, in one equation where the count fits (R142). -/
theorem exec_fold_of_fits (fits : s.BLK + 1 < 2 ^ s.params.blkW) : exec .fold s = .next { s with
    H := addWords s.H s.v, BLK := s.BLK + 1, PHASE := if s.BLK + 1 < s.NBLK then PHASE_LOAD else PHASE_FINALIZE,
    T := 0 } := by
  rw [exec_fold_cut, Nat.mod_eq_of_lt fits]

/-- Settles O53: 129 micro-operations go through the stages of the block, and the last one folds it. -/
theorem blockIsCompressed : Obligations.BlockIsCompressed := by
  unfold Obligations.BlockIsCompressed
  rintro s block phase zero silent more fits rfl
  have holds : s.HoldsBlock ((List.range 64).map fun j => s.padByte (64 * s.BLK + j)) := fun j below => by simp [below]
  obtain ⟨t, ran, stage, same⟩ := (BlockStage.start _ phase zero).run silent holds (k := 129) (by omega)
  obtain ⟨fold, working⟩ := stage.fold_of_all
  have words := (stage.scheduleDone (by simp [fold])).toList_W
  obtain ⟨hash, -, nblk, blk⟩ := same.keeps
  have width : t.BLK + 1 < 2 ^ t.params.blkW := by
    rw [blk, same]
    exact (Nat.le_trans more fits).trans_lt (lt_two_pow_bitsFor _)
  have silent' : t.events = [] := by rw [same]; exact silent
  have last := step_of_silence silent'
  rw [fold] at last
  have folds := run_succ (last.trans (exec_fold_of_fits width)) 0
  refine ⟨_, (run_add ran 1).trans folds, words, ?hash, ?blk, rfl, ?phase, ?frame⟩
  case hash => simp only []; rw [addWords_eq_compress working, hash]
  case blk => simp only []; rw [blk]
  case phase => simp only []; rw [blk, nblk]
  case frame => rw [same]

end
end Sys2Proof.Machine
end

section
/-! The constants and sizes: the ROMs as root fractions of the first primes (R24, R25), the registers' widths (R5, R20),
the shape of a hash's text (R201, S4), and the places of a system, of which a step sets one (R251). -/

namespace Sys2Proof.Machine

/-! ## The first primes -/

/-- The primes whose roots the ROMs hold. -/
def firstPrimes : List Nat :=
  [2, 3, 5, 7, 11, 13, 17, 19, 23, 29, 31, 37, 41, 43, 47, 53, 59, 61, 67, 71, 73, 79, 83, 89, 97, 101, 103, 107, 109,
   113, 127, 131, 137, 139, 149, 151, 157, 163, 167, 173, 179, 181, 191, 193, 197, 199, 211, 223, 227, 229, 233, 239,
   241, 251, 257, 263, 269, 271, 277, 281, 283, 293, 307, 311]

/-- Trial division by the numbers below 18, which decides primality below 18². -/
def passesTrial (n : Nat) : Bool := decide (2 ≤ n) && (List.range 18).all fun m => !decide (2 ≤ m ∧ m < n ∧ m ∣ n)

theorem prime_iff_passesTrial {n : Nat} (small : n < 18 * 18) : n.Prime ↔ passesTrial n = true := by
  have spec : passesTrial n = true ↔ 2 ≤ n ∧ ∀ m < 18, 2 ≤ m → m < n → ¬m ∣ n := by
    simp only [passesTrial, Bool.and_eq_true, decide_eq_true_iff, List.all_eq_true, List.mem_range, Bool.not_eq_true',
      decide_eq_false_iff_not, not_and]
  rw [spec]
  constructor
  · intro prime
    obtain ⟨two, noDivisor⟩ := Nat.prime_def_lt'.mp prime
    exact ⟨two, fun m _ => noDivisor m⟩
  · rintro ⟨two, noDivisor⟩
    exact Nat.prime_def_le_sqrt.mpr ⟨two, fun m above below =>
      noDivisor m (below.trans_lt (Nat.sqrt_lt.mpr small)) above (below.trans_lt (Nat.sqrt_lt_self two))⟩

/-- The next prime after the `t`-th. -/
theorem nth_prime_succ {t p q : Nat} (before : Nat.nth Nat.Prime t = p) (prime : q.Prime) (above : p < q)
    (between : ∀ n, p < n → n < q → ¬n.Prime) : Nat.nth Nat.Prime (t + 1) = q := by
  apply le_antisymm
  · by_contra late
    have := Nat.le_nth_of_lt_nth_succ (not_le.mp late) prime
    omega
  · by_contra early
    have rises : Nat.nth Nat.Prime t < Nat.nth Nat.Prime (t + 1) :=
      Nat.nth_strictMono Nat.infinite_setOfPred_prime (Nat.lt_succ_self t)
    exact between _ (before ▸ rises) (not_le.mp early) (Nat.prime_nth_prime _)

/-- Each number of the table is the next after its predecessor that passes the trial. -/
theorem firstPrimes_table : ∀ t < 63, firstPrimes.getD t 0 < firstPrimes.getD (t + 1) 0 ∧
    firstPrimes.getD (t + 1) 0 < 18 * 18 ∧ passesTrial (firstPrimes.getD (t + 1) 0) = true ∧
    ∀ d < firstPrimes.getD (t + 1) 0 - (firstPrimes.getD t 0 + 1),
      passesTrial (firstPrimes.getD t 0 + 1 + d) = false := by decide

/-- The table holds the first 64 primes. -/
theorem nth_prime_eq {t : Nat} (h : t < 64) : Nat.nth Nat.Prime t = firstPrimes.getD t 0 := by
  induction t with
  | zero => exact Nat.nth_prime_zero_eq_two
  | succ t ih =>
    obtain ⟨above, small, passes, between⟩ := firstPrimes_table t (by omega)
    refine nth_prime_succ (ih (by omega)) ((prime_iff_passesTrial small).mpr passes) above fun n lower upper => ?_
    obtain ⟨d, rfl⟩ := Nat.exists_eq_add_of_le (Nat.succ_le_of_lt lower)
    rw [prime_iff_passesTrial (upper.trans small), between d (by omega)]
    exact Bool.false_ne_true

/-- The bounds of the cube roots, for the primes of the table: the whole part is at most 6. -/
theorem K_bounds : ∀ t : Fin 64, ∃ n < 7,
    (n * 2 ^ 32 + Rom.K[t].toNat) ^ 3 ≤ firstPrimes.getD t 0 * 2 ^ 96 ∧
    firstPrimes.getD t 0 * 2 ^ 96 < (n * 2 ^ 32 + Rom.K[t].toNat + 1) ^ 3 := by
  decide

/-- The bounds of the square roots: the whole part is at most 4. -/
theorem IV_bounds : ∀ i : Fin 8, ∃ n < 5,
    (n * 2 ^ 32 + Rom.IV[i].toNat) ^ 2 ≤ firstPrimes.getD i 0 * 2 ^ 64 ∧
    firstPrimes.getD i 0 * 2 ^ 64 < (n * 2 ^ 32 + Rom.IV[i].toNat + 1) ^ 2 := by
  decide

/-- Settles O51: the bounds hold of the table, which holds the first primes. -/
theorem romsAreRootFractions : Obligations.RomsAreRootFractions := by
  unfold Obligations.RomsAreRootFractions
  constructor
  · intro t
    obtain ⟨n, -, bounds⟩ := K_bounds t
    exact ⟨n, nth_prime_eq t.isLt ▸ bounds⟩
  · intro i
    obtain ⟨n, -, bounds⟩ := IV_bounds i
    exact ⟨n, nth_prime_eq (t := i) (by omega) ▸ bounds⟩

/-! ## Register widths -/

/-- `bitsFor n` is the least width that holds `n`. -/
theorem two_pow_le_of_lt_bitsFor {n w : Nat} (positive : n ≠ 0) (narrower : w < bitsFor n) : 2 ^ w ≤ n :=
  (Nat.pow_le_pow_right (by omega) (Nat.le_of_lt_succ narrower)).trans (Nat.log2_self_le positive)

/-- Settles O52: both widths are `bitsFor` of the largest value held. -/
theorem blockCounterWidth : Obligations.BlockCounterWidth := by
  unfold Obligations.BlockCounterWidth
  intro p
  have blocks : p.nblkMax ≠ 0 := Nat.succ_ne_zero _
  have buffer : p.pbufMax ≠ 0 := Nat.mul_ne_zero (by omega) blocks
  exact ⟨rfl, rfl, lt_two_pow_bitsFor _, fun w => two_pow_le_of_lt_bitsFor blocks, lt_two_pow_bitsFor _,
    fun w narrower => Nat.lt_succ_of_le (two_pow_le_of_lt_bitsFor buffer narrower)⟩

/-! ## The text of a hash -/

/-- The sixteen digits (R200). -/
theorem hexDigit_mem : ∀ n : Fin 16,
    hexDigit n ∈ ['0', '1', '2', '3', '4', '5', '6', '7', '8', '9', 'a', 'b', 'c', 'd', 'e', 'f'] := by decide

/-- Every character of a formatted hash is a digit of one of its nibbles (R201). -/
theorem mem_formatHash {hs : Vector Word 8} {c : Char} (h : c ∈ formatHash hs) : ∃ n : Fin 16, c = hexDigit n := by
  obtain ⟨x, -, inWord⟩ := List.mem_flatMap.mp h
  obtain ⟨n, -, rfl⟩ := List.mem_map.mp inWord
  exact ⟨⟨x.toNat / 16 ^ n % 16, Nat.mod_lt _ (by omega)⟩, rfl⟩

/-- Settles O58: eight words of eight digits each. -/
theorem hashTextShape : Obligations.HashTextShape := by
  unfold Obligations.HashTextShape
  intro m
  refine ⟨length_formatHash _, fun c h => ?_⟩
  obtain ⟨n, rfl⟩ := mem_formatHash h
  exact hexDigit_mem n

/-! ## A system of several blocks -/

/-- Settles O60: a step of the system sets one place of the list. -/
theorem instancesAreIndependent : Obligations.InstancesAreIndependent := by
  unfold Obligations.InstancesAreIndependent
  intro sys sys' k h
  unfold systemStep at h
  cases answer : step sys[k] <;> rw [answer] at h <;> cases h
  case next.refl t =>
    exact ⟨List.length_set, ⟨t, rfl, List.getElem?_set_self k.isLt⟩, fun j other => List.getElem?_set_ne other.symm⟩

end Sys2Proof.Machine
end

section
/-! PUTMSG (R102, R264): the transactions of a message's bytes and of its length, one step each, from a state not busy. -/

namespace Sys2Proof.Machine

section
variable {s : State} {rest : List Event}

/-- One byte of the message is written at its address (R219). -/
theorem step_wr8_msg (bound : s.params.wf) (free : s.busy = false) {j : Nat} (within : j < s.params.msgMaxBytes)
    (b : Byte) (events : s.events = .host (busRecord .wr8 (msgAddr s.params j) (b.setWidth 32)) :: rest) :
    step s = .next { s with MSG := s.MSG.write j b, response := some ⟨.ok, 0⟩, events := rest } := by
  have lane : byteLane (b.setWidth 32) = b := by
    apply BitVec.eq_of_toNat_eq
    simp [byteLane_eq, b.isLt]
  rw [step_of_host events, decodeBus_wr8]
  refine (exec_wr8_msgAddr (s := s.setEvents rest) bound within _).trans ?_
  rw [lane, State.setEvents_busy, free]
  rfl

/-- The length is written while not busy (R212). -/
theorem step_wr32_msgLen (free : s.busy = false) (n : BitVec 32)
    (events : s.events = .host (busRecord .wr32 (hostAddr s.params 0x0008) n) :: rest) :
    step s = .next { s with MSG_LEN := n, response := some ⟨.ok, 0⟩, events := rest } := by
  rw [step_of_host events, decodeBus_wr32]
  refine (exec_wr32_msgLenAddr (s.setEvents rest) n).trans ?_
  rw [State.setEvents_busy, free]
  rfl

/-- Consecutive bytes read alike whether the first of them is stored first, as the host does, or last. -/
theorem Memory.read_writeBytes_of_write (m : Memory) (j : Nat) (b : Byte) (bs : List Byte) (a : Nat) :
    ((m.write j b).writeBytes (j + 1) bs).read a = (m.writeBytes j (b :: bs)).read a := by
  rw [Memory.writeBytes, Memory.read_write, Memory.read_writeBytes, Memory.read_writeBytes, Memory.read_write]
  by_cases first : a = j
  · simp [first]
  · simp [first]

/-- The transactions of consecutive bytes store them at consecutive indexes and change nothing else but the response. -/
theorem run_putBytes (bound : s.params.wf) (free : s.busy = false) (bs : List Byte) {j : Nat}
    (within : j + bs.length ≤ s.params.msgMaxBytes)
    (events : s.events = (putBytes s.params j bs).filterMap transactionEvent ++ rest) :
    ∃ mem r, run bs.length s = .next { s with MSG := mem, response := r, events := rest } ∧
      ∀ a, mem.read a = (s.MSG.writeBytes j bs).read a := by
  induction bs generalizing s j with
  | nil =>
    have taken : s.events = rest := events
    exact ⟨s.MSG, s.response, by rw [← taken]; rfl, fun _ => rfl⟩
  | cons b bs ih =>
    have within' : j + (bs.length + 1) ≤ s.params.msgMaxBytes := within
    have first := step_wr8_msg bound free (by omega) b events
    obtain ⟨mem, r, ran, read⟩ := ih
      (s := { s with
        MSG := s.MSG.write j b, response := some ⟨.ok, 0⟩,
        events := (putBytes s.params (j + 1) bs).filterMap transactionEvent ++ rest })
      bound free (j := j + 1) (by simp only []; omega) rfl
    refine ⟨mem, r, (run_succ first _).trans ran, fun a => (read a).trans ?_⟩
    exact Memory.read_writeBytes_of_write s.MSG j b bs a

/-- Settles O55: the bytes of the message, then its length. -/
theorem hostWritesMessage : Obligations.HostWritesMessage := by
  unfold Obligations.HostWritesMessage
  intro s m rest bound free fits events
  have split : s.events = (putBytes s.params 0 m).filterMap transactionEvent ++
      .host (busRecord .wr32 (hostAddr s.params 0x0008) (BitVec.ofNat 32 m.length)) :: rest := by
    rw [events]
    simp [programEvents, Pseudo.expand, transactionEvent]
  obtain ⟨mem, r, ran, read⟩ := run_putBytes bound free m (by omega) split
  have last := step_wr32_msgLen (s := { s with
    MSG := mem, response := r,
    events := .host (busRecord .wr32 (hostAddr s.params 0x0008) (BitVec.ofNat 32 m.length)) :: rest }) free _ rfl
  have written : ∀ j < m.length, mem.read j = m[j]? := fun j below => by
    rw [read, Memory.read_writeBytes_zero_of_lt _ below]
  refine ⟨_, mem, (run_add ran 1).trans (run_succ last 0), message_eq_of_read ?_ written, written,
    fun j above => ?_, rfl⟩
  · have : s.params.msgMaxBytes ≤ 0xFFFF0000 := bound
    simp only [BitVec.toNat_ofNat]
    omega
  · rw [read, Memory.read_writeBytes_zero_of_le _ above]

end
end Sys2Proof.Machine
end

section
/-! What the hidden registers hold in IDLE never reaches the host (R261): two states that agree on the rest stay alike,
since both engines are at stages of one message's computation, whose digest is all they show. -/

namespace Sys2Proof.Machine

/-- The sequencer of `t` is where that of `s` is, with the same block count. -/
structure SamePosition (s t : State) : Prop where
  phase : s.PHASE = t.PHASE
  index : s.T = t.T
  blk : s.BLK = t.BLK
  nblk : s.NBLK = t.NBLK

/-- Two states that a host cannot tell apart, now or later: the same events come to the same sequencer, and both datapaths
hold what their computation says. -/
structure Twins (s s' : State) : Prop where
  same : SameToHost s s'
  position : SamePosition s s'
  events : s.events = s'.events
  legal : s.PHASE.toNat ≤ 9
  tracks : Tracks s
  tracks' : Tracks s'

section
variable {s s' t t' : State}

/-! ## The position -/

/-- Micro-operations that choose between two positions by the same test choose alike. -/
theorem samePosition_of_ite {c c' : Prop} [Decidable c] [Decidable c'] {a b a' b' : State} (test : c ↔ c')
    (ha : SamePosition a a') (hb : SamePosition b b')
    (h : (if c then .next a else .next b : Host.Outcome State Fault Refusal) = .next t)
    (h' : (if c' then .next a' else .next b' : Host.Outcome State Fault Refusal) = .next t') : SamePosition t t' := by
  by_cases branch : c
  · rw [if_pos branch] at h; rw [if_pos (test.mp branch)] at h'; cases h; cases h'; exact ha
  · rw [if_neg branch] at h; rw [if_neg (mt test.mpr branch)] at h'; cases h; cases h'; exact hb

/-- The next position depends on the position, the parameters and the message only (R144). -/
theorem exec_uop_samePosition (position : SamePosition s s') (params : s.params = s'.params)
    (message : s.message = s'.message) (turn : exec (decodeUop s.PHASE) s = .next t)
    (turn' : exec (decodeUop s'.PHASE) s' = .next t') : SamePosition t t' := by
  have ⟨samePhase, index, blk, nblk⟩ := position
  have counted : s.T + 1 = s'.T + 1 := by rw [index]
  have below (n : Nat) : s.T.toNat < n ↔ s'.T.toNat < n := by rw [index]
  rw [← samePhase] at turn'
  rcases exec_uop_cases s with ⟨phase, -⟩ | ⟨phase, -⟩ | ⟨phase, -⟩ | ⟨phase, -⟩ | ⟨phase, -⟩ | ⟨phase, -⟩ |
    ⟨phase, -⟩ | ⟨phase, -⟩ | ⟨phase, -⟩ | ⟨phase, -⟩ | ⟨-, e⟩ <;> try rw [phase] at turn turn'
  · cases turn; cases turn'; exact position
  · cases (initOutcome s).symm.trans turn; cases (initOutcome s').symm.trans turn'; exact ⟨rfl, rfl, rfl, nblk⟩
  · cases (exec_pad_cut s).symm.trans turn
    cases (exec_pad_cut s').symm.trans turn'
    exact ⟨rfl, rfl, blk, by simp only []; rw [message, params]⟩
  · refine samePosition_of_ite (below 15) ?_ ?_ turn turn'
    exacts [⟨rfl, counted, blk, nblk⟩, ⟨rfl, rfl, blk, nblk⟩]
  · refine samePosition_of_ite (below 63) ?_ ?_ turn turn'
    exacts [⟨rfl, counted, blk, nblk⟩, ⟨rfl, rfl, blk, nblk⟩]
  · cases turn; cases turn'; exact ⟨rfl, rfl, blk, nblk⟩
  · refine samePosition_of_ite (below 63) ?_ ?_ turn turn'
    exacts [⟨rfl, counted, blk, nblk⟩, ⟨rfl, rfl, blk, nblk⟩]
  · cases (exec_fold_cut s).symm.trans turn
    cases (exec_fold_cut s').symm.trans turn'
    exact ⟨by simp only []; rw [blk, params, nblk], rfl, by simp only []; rw [blk, params], nblk⟩
  · cases (exec_finalize s).symm.trans turn
    cases (exec_finalize s').symm.trans turn'
    exact ⟨rfl, rfl, by simpa using blk, by simpa using nblk⟩
  · cases turn; cases turn'; exact position
  · cases e.symm.trans turn

/-! ## One event -/

theorem SameToHost.message (same : SameToHost s s') : s.message = s'.message :=
  message_congr same.msg same.msgLen same.epoch

/-- Two busy engines at stages of one computation that reach DONE show the same digest (R147). -/
theorem digest_eq_of_stages {m : List Byte} {k k' : Nat} (stage : Stage m t k) (stage' : Stage m t' k')
    (phase : t.PHASE = PHASE_DONE) (phase' : t'.PHASE = PHASE_DONE) : t.H = t'.H ∧ t.HEXBUF = t'.HEXBUF := by
  have hash := (stage.folded (by simp [phase])).hash
  have hash' := (stage'.folded (by simp [phase'])).hash
  exact ⟨hash.trans hash'.symm, Vector.toList_inj.mp ((stage.hexbuf phase).trans (stage'.hexbuf phase').symm)⟩

/-- After a turn the digests are alike where they are shown: they were shown before and stand, or both computations have
just ended. -/
theorem Twins.turn_digest (twins : Twins s s') (turn : exec (decodeUop s.PHASE) s = .next t)
    (turn' : exec (decodeUop s'.PHASE) s' = .next t') (position : SamePosition t t') (done : t.done = true) :
    t.H = t'.H ∧ t.HEXBUF = t'.HEXBUF := by
  have phase := (done_iff t).mp done
  cases busy : s.busy with
  | false =>
    have resting := resting_of_not_busy twins.legal busy
    cases (exec_uop_of_resting resting s).symm.trans turn
    cases (exec_uop_of_resting (twins.same.phase ▸ resting) s').symm.trans turn'
    exact ⟨twins.same.hash done, twins.same.hex done⟩
  | true =>
    obtain ⟨-, k, stage⟩ := twins.tracks.turn_of_busy busy turn
    obtain ⟨-, k', stage'⟩ := twins.tracks'.turn_of_busy (twins.same.busy ▸ busy) turn'
    rw [← twins.same.message] at stage'
    exact digest_eq_of_stages stage stage' phase (position.phase ▸ phase)

/-- The engine's turn keeps two states alike. -/
theorem Twins.turn (twins : Twins s s') : ∃ t t', exec (decodeUop s.PHASE) s = .next t ∧
    exec (decodeUop s'.PHASE) s' = .next t' ∧ Twins t t' := by
  have ⟨same, position, events, legal, tracks, tracks'⟩ := twins
  have legal' : s'.PHASE.toNat ≤ 9 := same.phase ▸ legal
  obtain ⟨t, turn⟩ := exec_uop_answers legal
  obtain ⟨t', turn'⟩ := exec_uop_answers legal'
  have next := exec_uop_samePosition position same.params same.message turn turn'
  have digest := twins.turn_digest turn turn' next
  obtain ⟨cmderr, lenerr, len, msg, params, response, taken, epoch⟩ := exec_uop_frame turn
  obtain ⟨cmderr', lenerr', len', msg', params', response', taken', epoch'⟩ := exec_uop_frame turn'
  have outside : t.OutsideReserved := exec_uop_outsideReserved turn
  refine ⟨t, t', turn, turn', ⟨⟨next.phase, next.index, ?_, ?_, ?_, ?_, ?_, ?_, ?_, fun d => (digest d).1,
    fun d => (digest d).2⟩, next, ?_, Nat.le_of_lt_succ outside, tracks.turn legal turn, tracks'.turn legal' turn'⟩⟩
  · rw [cmderr, cmderr', same.cmderr]
  · rw [lenerr, lenerr', same.lenerr]
  · rw [len, len', same.msgLen]
  · rw [msg, msg', same.msg]
  · rw [params, params', same.params]
  · rw [epoch, epoch', same.epoch]
  · rw [response, response', same.response]
  · rw [taken, taken', events]

/-- A transaction keeps two states alike (R222). -/
theorem Twins.transaction (twins : Twins s s') (record : BitVec 66) : ∃ t t', exec (decodeBus record) s = .next t ∧
    exec (decodeBus record) s' = .next t' ∧ Twins t t' := by
  have ⟨same, position, events, legal, tracks, tracks'⟩ := twins
  obtain ⟨t, t', answer, answer', next⟩ := nothingHiddenIsReadable s s' record same
  obtain ⟨-, -, -, -, -, nblk, blk, -, -, taken, -⟩ := exec_bus_frame answer
  obtain ⟨-, -, -, -, -, nblk', blk', -, -, taken', -⟩ := exec_bus_frame answer'
  have outside : t.OutsideReserved := exec_bus_outsideReserved (Nat.lt_succ_of_le legal : s.OutsideReserved) answer
  exact ⟨t, t', answer, answer', next,
    ⟨next.phase, next.t, by rw [blk, blk', position.blk], by rw [nblk, nblk', position.nblk]⟩,
    by rw [taken, taken', events], Nat.le_of_lt_succ outside, tracks.transaction answer, tracks'.transaction answer'⟩

/-- A reset makes two states alike equal: what it leaves depends on the parameters, the coming events and the reset count
(R260; logs 5, 15). -/
theorem Twins.takeReset (twins : Twins s s') : Twins s.takeReset s'.takeReset := by
  have equal : s'.takeReset = s.takeReset := by
    rw [State.takeReset, ← twins.same.params, ← twins.events, ← twins.same.epoch, State.takeReset]
  rw [equal]
  exact ⟨⟨rfl, rfl, rfl, rfl, rfl, rfl, rfl, rfl, rfl, fun _ => rfl, fun _ => rfl⟩, ⟨rfl, rfl, rfl, rfl⟩, rfl,
    by simp, tracks_afterReset _ _ _, tracks_afterReset _ _ _⟩

theorem Twins.setEvents (twins : Twins s s') (es : List Event) : Twins (s.setEvents es) (s'.setEvents es) :=
  { same := { twins.same with }
    position := { twins.position with }
    events := rfl
    legal := twins.legal
    tracks := twins.tracks.of_hostState s.CMDERR s.response es
    tracks' := twins.tracks'.of_hostState s'.CMDERR s'.response es }

/-! ## A step and a run -/

theorem Twins.step (twins : Twins s s') : ∃ t t', step s = .next t ∧ step s' = .next t' ∧ Twins t t' := by
  cases events : s.events with
  | nil =>
    rw [step_of_silence events, step_of_silence (twins.events.symm.trans events)]
    exact twins.turn
  | cons e es =>
    have events' := twins.events.symm.trans events
    cases e with
    | engine =>
      rw [step_of_engine events, step_of_engine events']
      exact (twins.setEvents es).turn
    | host record =>
      rw [step_of_host events, step_of_host events']
      exact (twins.setEvents es).transaction record
    | reset => exact ⟨_, _, step_of_reset events, step_of_reset events', (twins.setEvents es).takeReset⟩

theorem Twins.run (twins : Twins s s') (k : Nat) : ∃ t t', run k s = .next t ∧ run k s' = .next t' ∧ Twins t t' := by
  induction k generalizing s s' with
  | zero => exact ⟨s, s', rfl, rfl, twins⟩
  | succ k ih =>
    obtain ⟨t, t', first, first', next⟩ := twins.step
    obtain ⟨u, u', rest, rest', last⟩ := ih next
    exact ⟨u, u', (run_succ first k).trans rest, (run_succ first' k).trans rest', last⟩

/-- In IDLE a state tracks its computation, there being none. -/
theorem tracks_of_idle (phase : s.PHASE = PHASE_IDLE) : Tracks s :=
  tracks_of_not_busy (by simp [State.busy, phase]) fun done => by simp [phase] at done

/-- Settles O43: in IDLE the two states are twins, whatever the hidden registers hold, and every step keeps them so. -/
theorem hiddenValuesStayHidden : Obligations.HiddenValuesStayHidden := by
  unfold Obligations.HiddenValuesStayHidden
  rintro s _ hs vs ws p plen hex k inv phase rfl
  have hides : s.done ≠ true := by rw [ne_eq, done_iff, phase]; decide
  have twins : Twins s { s with H := hs, v := vs, W := ws, P := p, PLEN := plen, HEXBUF := hex } :=
    ⟨⟨rfl, rfl, rfl, rfl, rfl, rfl, rfl, rfl, rfl, fun shown => absurd shown hides, fun shown => absurd shown hides⟩,
      ⟨rfl, rfl, rfl, rfl⟩, rfl, inv.phase_legal, tracks_of_idle phase, tracks_of_idle phase⟩
  obtain ⟨t, t', ran, ran', last⟩ := twins.run k
  exact ⟨t, t', ran, ran', last.same⟩

end
end Sys2Proof.Machine
end
